-- ==== Sys2Proof/Word.lean ====
section
/-! DEFINITION. The two word types of the block: the 32-bit words of its ports (R22, R81, R93) and the
8-bit values of its tables, colours and transmit buffer (R27, R29, R110). -/

namespace Sys2Proof

/-- A 32-bit word: a host register, a command word, an ENCODE request (R22, R81, R93). -/
abbrev Word := BitVec 32

/-- A `u8`: a gamma table entry, a Color8 channel, a TxBuffer byte (R27, R29, R110). -/
abbrev Byte := BitVec 8

end Sys2Proof
end

