-- ==== Sys2Proof/Syntax.lean ====
section
/-! DEFINITION. The instructions of the block: the six host commands of R82 and the ENCODE request of the
symbol port (R93), one constructor per row of spec/opcode_table.json. -/

namespace Sys2Proof

/-- The instructions. Immediates are integers, as R83 and R93 give them: nothing shifts or masks them after
decoding. Their ranges are checked by `Instr.wf`. -/
inductive Instr
  /-- INIT, selector `sel` = IMM8 (R190). -/
  | init (sel : Nat)
  /-- SET_PIXEL, brightness field `bfield` = IMM8 (R131). -/
  | setPixel (bfield : Nat)
  /-- MOD_BRIGHT, brightness field `bfield` = IMM8 (R135). -/
  | modBright (bfield : Nat)
  /-- TRANSMIT (R201). -/
  | transmit
  /-- WIPE (R205). -/
  | wipe
  /-- ABORT (R165). -/
  | abort
  /-- ENCODE, with the sink's capacity `cap` in symbol words (R151). -/
  | encode (cap : Nat)
  deriving DecidableEq, Repr

/-- The two ports an instruction can arrive on: the host's `CMD` register (R80) and the sink's symbol
port (R93). -/
inductive Port
  | cmd
  | symbol
  deriving DecidableEq, Repr

end Sys2Proof
end

