-- ==== Sys2Proof/WellFormed.lean ====
section
/-! DEFINITION. The instructions an encoding exists for: an 8-bit immediate (R81) and a 32-bit capacity (R93). -/

namespace Sys2Proof

/-- The operand ranges of the encodings: IMM8 is 8 bits (R81) and `cap` is a u32 (R93). -/
def Instr.wf : Instr → Bool
  | .init sel => decide (sel < 2 ^ 8)
  | .setPixel bfield => decide (bfield < 2 ^ 8)
  | .modBright bfield => decide (bfield < 2 ^ 8)
  | .transmit => true
  | .wipe => true
  | .abort => true
  | .encode cap => decide (cap < 2 ^ 32)

end Sys2Proof
end

