-- ==== Sys2Proof/Decode.lean ====
section
/-! DEFINITION. Decoding of command words (R98) and ENCODE requests (R93), the encoder, and the match and
mask table of R99. -/

namespace Sys2Proof

/-- Why a command word is ILLEGAL, in the order of the checks (R225, steps 1 to 3). -/
inductive Reject
  /-- `v[31:16] ≠ 0` (R85). -/
  | reservedBits
  /-- `OP` is 0x00 or 0x07 to 0xFF (R86). -/
  | reservedOpcode
  /-- `IMM8 ≠ 0` on TRANSMIT, WIPE or ABORT (R87). -/
  | immediateNotZero
  deriving DecidableEq, Repr

/-- The field `v[7:0]` (R81). -/
def opField (v : Word) : Nat := (v.extractLsb' 0 8).toNat

/-- The field `v[15:8]` (R81). -/
def immField (v : Word) : Nat := (v.extractLsb' 8 8).toNat

/-- The field `v[31:16]` (R81). -/
def rsvField (v : Word) : Nat := (v.extractLsb' 16 16).toNat

/-- A command that takes no immediate: any IMM8 but 0 is illegal (R87). -/
def withoutImmediate (imm : Nat) (i : Instr) : Except Reject Instr :=
  if imm = 0 then .ok i else .error .immediateNotZero

/-- The command of an opcode and an immediate (the `case` of R98). -/
def decodeOp (op imm : Nat) : Except Reject Instr :=
  match op with
  | 0x01 => .ok (.init imm)
  | 0x02 => .ok (.setPixel imm)
  | 0x03 => .ok (.modBright imm)
  | 0x04 => withoutImmediate imm .transmit
  | 0x05 => withoutImmediate imm .wipe
  | 0x06 => withoutImmediate imm .abort
  | _ => .error .reservedOpcode

/-- Decoding of a command word, total on all 2^32 values (R98). -/
def decodeCmd (v : Word) : Except Reject Instr :=
  if rsvField v ≠ 0 then .error .reservedBits else decodeOp (opField v) (immField v)

/-- Decoding of an ENCODE request: every 32-bit value is a legal request (R93, R99). -/
def decodeRequest (v : Word) : Instr := .encode v.toNat

/-- The decoder of each port. -/
def decode (p : Port) (v : Word) : Except Reject Instr :=
  match p with
  | .cmd => decodeCmd v
  | .symbol => .ok (decodeRequest v)

/-- The command word with the given opcode and immediate and RSV = 0 (R81). -/
def cmdWord (op imm : Nat) : Word := 0#16 ++ (BitVec.ofNat 8 imm ++ BitVec.ofNat 8 op)

/-- The port and the word of an instruction (R82, R93, R96). -/
def encode : Instr → Port × Word
  | .init sel => (.cmd, cmdWord 0x01 sel)
  | .setPixel bfield => (.cmd, cmdWord 0x02 bfield)
  | .modBright bfield => (.cmd, cmdWord 0x03 bfield)
  | .transmit => (.cmd, cmdWord 0x04 0)
  | .wipe => (.cmd, cmdWord 0x05 0)
  | .abort => (.cmd, cmdWord 0x06 0)
  | .encode cap => (.symbol, BitVec.ofNat 32 cap)

/-- The six commands by name, for the rows of R99. -/
inductive Command
  | init
  | setPixel
  | modBright
  | transmit
  | wipe
  | abort
  deriving DecidableEq, Repr

/-- The command an instruction is, if it arrives on the `CMD` register. -/
def Instr.command? : Instr → Option Command
  | .init _ => some .init
  | .setPixel _ => some .setPixel
  | .modBright _ => some .modBright
  | .transmit => some .transmit
  | .wipe => some .wipe
  | .abort => some .abort
  | .encode _ => none

/-- A row of the match and mask table (R99). -/
structure OpcodeRow where
  command : Command
  pattern : Word
  mask : Word
  deriving DecidableEq, Repr

/-- "A word matches a row when `(v & mask) == match`" (R99). -/
def OpcodeRow.matches (r : OpcodeRow) (v : Word) : Bool := v &&& r.mask == r.pattern

/-- The table of R99. -/
def opcodeRows : List OpcodeRow :=
  [⟨.init, 0x00000001#32, 0xFFFF00FF#32⟩,
   ⟨.setPixel, 0x00000002#32, 0xFFFF00FF#32⟩,
   ⟨.modBright, 0x00000003#32, 0xFFFF00FF#32⟩,
   ⟨.transmit, 0x00000004#32, 0xFFFFFFFF#32⟩,
   ⟨.wipe, 0x00000005#32, 0xFFFFFFFF#32⟩,
   ⟨.abort, 0x00000006#32, 0xFFFFFFFF#32⟩]

/-- The port a bare table word is taken to arrive on. DESIGN CHOICE (entry 5): a legal command word is a `CMD`
write, and any other word is an ENCODE request, since the table's ENCODE row matches every word. -/
def portOfTableWord (v : Word) : Port :=
  match decodeCmd v with
  | .ok _ => .cmd
  | .error _ => .symbol

/-- The instruction of a table word of `nbits` bits. Every instruction is exactly one 32-bit word (R88), so a
value that does not fit one is no instruction. -/
def decodeTableWord (nbits w : Nat) : Option Instr :=
  if w % 2 ^ nbits < 2 ^ 32 then
    let v := BitVec.ofNat 32 (w % 2 ^ nbits)
    match decode (portOfTableWord v) v with
    | .ok i => some i
    | .error _ => none
  else none

end Sys2Proof
end

