-- ==== Sys2Proof/Config.lean ====
section
/-! DEFINITION. The parameters of the block (R7) with their legal values, and the free values of the model:
the parameters a block has after reset, and the environment's answers that no list in State gives. -/

namespace Sys2Proof

/-- The channel names (R14). -/
inductive Channel
  | r
  | g
  | b
  deriving DecidableEq, Repr, Inhabited

/-- A permutation of the channels (R, G, B): the `order` field of a profile (R181). -/
inductive ChannelOrder
  | rgb
  | rbg
  | grb
  | gbr
  | brg
  | bgr
  deriving DecidableEq, Repr, Inhabited

/-- The chip families of R4, in the selector order of R180. -/
inductive ChipFamily
  | ws2812
  /-- `revision` is 1, 2 or 3. -/
  | ws2812b (revision : Nat)
  /-- `revision` is 1, 2 or 3. -/
  | ws2813 (revision : Nat)
  | sk6812
  | thirdParty
  /-- A profile an implementation adds. -/
  | further
  deriving DecidableEq, Repr

/-- A timing profile record (R181), durations in nanoseconds. Its `bpp` field has the one value 3 (R7, D39) and is
the constant `Config.bpp`. -/
structure Profile where
  t0h : Nat
  t0l : Nat
  t1h : Nat
  t1l : Nat
  trs : Nat
  order : ChannelOrder
  deriving DecidableEq, Repr, Inhabited

/-- The parameters of R7. `NUM_PROFILES` is the length of `profiles` (entry 12). -/
structure Params where
  /-- `LED_COUNT`. -/
  ledCount : Nat
  /-- `GAMMA[0..100]` (R110). -/
  gamma : List Byte
  /-- `PROFILES`, selector to record (R180, R181). -/
  profiles : List Profile
  /-- `CLK_HZ`. -/
  clkHz : Nat
  /-- `DUR_FIELD_MAX`. -/
  durFieldMax : Nat
  /-- `LPE_BASE`. -/
  lpeBase : Nat
  deriving DecidableEq, Repr, Inhabited

/-- The constraints every admissible `GAMMA` meets (R111): 101 entries, monotone, `GAMMA[0] = 0`,
`GAMMA[100] = 255`. -/
abbrev GammaLegal (gamma : List Byte) : Prop :=
  gamma.length = 101 ∧ gamma.Pairwise (fun x y => x.toNat ≤ y.toNat) ∧
    gamma[0]? = some 0#8 ∧ gamma[100]? = some 255#8

/-- The legal values of the parameters (R7, R111). -/
abbrev Params.Legal (p : Params) : Prop :=
  (1 ≤ p.ledCount ∧ p.ledCount ≤ 2 ^ 27) ∧ GammaLegal p.gamma ∧
    (9 ≤ p.profiles.length ∧ p.profiles.length ≤ 256) ∧
    (1 ≤ p.clkHz ∧ p.clkHz ≤ 2 ^ 32 - 1) ∧
    (1 ≤ p.durFieldMax ∧ p.durFieldMax ≤ 2 ^ 32 - 1) ∧ p.lpeBase % 4 = 0

namespace Config

/-- Colour bytes per pixel, fixed 3 (R7, D39). -/
def bpp : Nat := 3

/-- FREE VALUE (entry 1): the parameters of the block at hand, on which the spec puts no value. -/
opaque rawParams : Params

/-- Some legal parameters, used only to make `params` legal whatever `rawParams` is. No claim can tell whether it
is used. -/
def someLegal : Params where
  ledCount := 1
  gamma := List.replicate 100 0#8 ++ [255#8]
  profiles := List.replicate 9 ⟨1, 1, 1, 1, 2, .grb⟩
  clkHz := 1000000000
  durFieldMax := 1
  lpeBase := 0

/-- The parameters of the block after reset: legal (R7), and otherwise free (entry 1). -/
def params : Params := if rawParams.Legal then rawParams else someLegal

/-- FREE VALUE (entry 3): the outcome of the n-th draw, if it is a `chanOk` (R190, R236). -/
opaque chanOk : Nat → Bool

/-- FREE VALUE (entry 3): the outcome of the n-th draw, if it is a `chanAccept` (R201, R236). -/
opaque chanAccept : Nat → Bool

end Config

end Sys2Proof
end

