-- ==== Sys2Proof/Machine/State.lean ====
section
/-! DEFINITION. The state of the block (R20 to R36), the model's own fields beside it, the reset state, and the
reasons a step can stop. -/

namespace Sys2Proof.Machine

/-- Result codes (R221). Codes 6 to 15 are never produced. -/
inductive ResultCode
  | ok
  | indexError
  | initError
  | transmitError
  | notInit
  | illegal
  deriving DecidableEq, Repr

/-- Three proportion words (R27), red, green, blue: binary32 bit patterns. -/
structure Proportion where
  r : Word
  g : Word
  b : Word
  deriving DecidableEq, Repr

/-- A Color8: three 8-bit channel values (R13, R27). -/
structure Color8 where
  r : Byte
  g : Byte
  b : Byte
  deriving DecidableEq, Repr

/-- An entry of the pixel store (R27). -/
structure Pixel where
  prop : Proportion
  c8 : Color8
  deriving DecidableEq, Repr

/-- The reset value of every pixel (R28). -/
def Pixel.reset : Pixel := ⟨⟨0#32, 0#32, 0#32⟩, ⟨0#8, 0#8, 0#8⟩⟩

/-- The pixel store (R27) as pairs of an index and an entry, in the canonical form `Sparse.wf`: an index that is not
listed holds `Pixel.reset` (entry 10). -/
abbrev PixelStore := List (Nat × Pixel)

/-- The transmit buffer (R29) as pairs of a byte index and a byte, in the canonical form `Memory.wf`: an index that is
not listed holds the reset value 0x00 (entry 10). -/
abbrev Memory := List Host.Cell

/-- The encoder's phase (R30). -/
inductive Phase
  | encodingBytes
  | encodingReset
  deriving DecidableEq, Repr

/-- The level of a segment, 0 or 1 (R90). -/
inductive Level
  | low
  | high
  deriving DecidableEq, Repr

/-- A symbol word: two segments of a level and a duration in ticks (R90). Segment 0 is on the wire first (R57). -/
structure SymbolWord where
  level0 : Level
  dur0 : Nat
  level1 : Level
  dur1 : Nat
  deriving DecidableEq, Repr

/-- The symbol word {0, 0, 0, 0} (R33). -/
def SymbolWord.zero : SymbolWord := ⟨.low, 0, .low, 0⟩

/-- The three latched symbol words (R33, R91). -/
structure Ticks where
  w0 : SymbolWord
  w1 : SymbolWord
  wr : SymbolWord
  deriving DecidableEq, Repr

/-- The reset value of `Tick` (R33). -/
def Ticks.reset : Ticks := ⟨.zero, .zero, .zero⟩

/-- The flag of an ENCODE response (R95). -/
inductive ResponseFlag
  | idle
  | full
  | complete
  deriving DecidableEq, Repr

/-- An ENCODE response (R94). -/
structure Response where
  words : List SymbolWord
  flag : ResponseFlag
  deriving DecidableEq, Repr

/-- What the agents observe of the block (R15): the value a host read returns, and an ENCODE response.

Nothing here makes a sink ask: a frame in flight ends only by requests that arrive. A claim that frames complete takes as
its premise the weak fairness of the sink that R266 asks a model to state with its observation: while `Busy = 1`, a
request with `cap ≥ 1` is eventually issued (`SinkFair`, in `Sys2Proof/Safety.lean`; entry 16). -/
inductive Event
  /-- A host read at offset `off` returned `value`. -/
  | readValue (off : Nat) (value : Word)
  | response (r : Response)
  deriving DecidableEq, Repr

/-- A host bus operation (R50). -/
inductive BusOp
  | read
  | write (v : Word)
  deriving DecidableEq, Repr

/-- One atomic step of an agent (R70). -/
inductive Input
  /-- A host access of `size` bytes at offset `off` from LPE_BASE: `HostRead(off)` or `HostWrite(off, v)` when it
  is whole and aligned (R50, R51). -/
  | host (off size : Nat) (op : BusOp)
  /-- The same at a bus address, before the block decodes it (R50, R52). -/
  | bus (addr size : Nat) (op : BusOp)
  /-- An ENCODE request word on the symbol port (R93). -/
  | request (v : Word)
  /-- Reset, between two other steps (R250). -/
  | reset
  deriving DecidableEq, Repr

/-- The environment (R236): its pending answers to the two draws, oldest first, and how many draws have been
answered (entry 3). -/
structure Env where
  chanOk : List Bool
  chanAccept : List Bool
  drawn : Nat
  deriving DecidableEq, Repr

/-- The state. The fields from `idx` to `tick` are the block's own (R20); `params` holds the constants of R7, which no
step writes (entry 1); `env`, `inputs` and `trace` are the model's (entries 2 to 4). -/
structure State where
  /-- The parameters of R7. -/
  params : Params
  /-- `IDX`, offset 0x08 (R22). -/
  idx : Word
  /-- `PROP_R`, offset 0x0C (R22). -/
  propR : Word
  /-- `PROP_G`, offset 0x10 (R22). -/
  propG : Word
  /-- `PROP_B`, offset 0x14 (R22). -/
  propB : Word
  /-- `STATUS.RESULT` (R24, R221). -/
  result : ResultCode
  /-- `Pix` (R27). -/
  pix : PixelStore
  /-- `TxBuf` (R29). -/
  txBuf : Memory
  /-- `Enc.phase` (R30). -/
  phase : Phase
  /-- `Enc.bitpos` (R31). -/
  bitpos : Nat
  /-- `Busy` (R34). -/
  busy : Bool
  /-- `Init` (R34). -/
  init : Bool
  /-- `Sel` (R34). -/
  sel : Nat
  /-- `Tick` (R33). -/
  tick : Ticks
  /-- The environment's answers. -/
  env : Env
  /-- The steps to come, in the total order of R70. -/
  inputs : List Input
  /-- What has been observed, oldest first (R15). That it goes on to the end of a frame is an assumption on the sink
  (R266, `SinkFair`), not a fact about the block. -/
  trace : List Event
  deriving DecidableEq, Repr

/-- The state right after reset of a block with the given parameters (R36), with nothing pending and nothing
observed. -/
def State.resetWith (p : Params) : State where
  params := p
  idx := 0#32
  propR := 0#32
  propG := 0#32
  propB := 0#32
  result := .ok
  pix := []
  txBuf := []
  phase := .encodingBytes
  bitpos := 0
  busy := false
  init := false
  sel := 0
  tick := .reset
  env := ⟨[], [], 0⟩
  inputs := []
  trace := []

/-- The state right after reset (R36, R250), with free parameters (entry 1). -/
def State.reset : State := State.resetWith Config.params

/-- Why the machine would stop with a fault: never. "No condition makes the block trap, halt or stop" (R220). -/
inductive Fault
  deriving DecidableEq, Repr

/-- Why a step is refused. Each is safe: the machine stops where the spec gives no step. -/
inductive Refusal
  /-- An instruction with no meaning yet, by its mnemonic. Raised by no arm of `exec`. Safe. -/
  | notModelled (mnemonic : String)
  /-- A host access that is not one whole, aligned 32-bit access: "refused by the model: the access has no step" (R51).
  Raised by `hostAccess`. Safe. -/
  | partialAccess
  /-- An access outside the register window, which the block does not decode (R52). Raised by `hostAccess` and
  `busAccess`. Safe. -/
  | outsideWindow
  deriving DecidableEq, Repr

end Sys2Proof.Machine
end

