-- ==== Sys2Proof/Machine/Ops.lean ====
section
/-! DEFINITION. The named operations over the stores and the registers: reading and writing one entry of a sparse
store, filling a whole store, the read and write primitives of R10, recording a result (R220, the block's one
operation in place of an exception), and the environment's draws (R236). -/

namespace Sys2Proof.Machine

/-- Read entry `a` of a store whose unlisted entries hold `d`. -/
def Sparse.get {α : Type} (d : α) : List (Nat × α) → Nat → α
  | [], _ => d
  | (k, v) :: m, a => if a = k then v else Sparse.get d m a

/-- Write entry `a`, keeping the canonical form: writing `d` removes the entry. -/
def Sparse.set {α : Type} [DecidableEq α] (d : α) : List (Nat × α) → Nat → α → List (Nat × α)
  | [], a, v => if v = d then [] else [(a, v)]
  | (k, w) :: m, a, v =>
    if a < k then (if v = d then (k, w) :: m else (a, v) :: (k, w) :: m)
    else if a = k then (if v = d then m else (a, v) :: m)
    else (k, w) :: Sparse.set d m a v

/-- The entry that holds `f k` at index `k`, if it has to be listed. -/
def Sparse.entry {α : Type} [DecidableEq α] (d : α) (f : Nat → α) (k : Nat) : Option (Nat × α) :=
  if f k = d then none else some (k, f k)

/-- The store that holds `f k` at every index k < n and `d` everywhere else: a loop `for k in 0 .. n-1` that writes
every entry (R140, R143). -/
def Sparse.tabulate {α : Type} [DecidableEq α] (d : α) (n : Nat) (f : Nat → α) : List (Nat × α) :=
  (List.range n).filterMap (Sparse.entry d f)

/-- The canonical form of a store: indexes strictly rising, and no entry equal to what an unlisted index holds. -/
abbrev Sparse.wf {α : Type} [DecidableEq α] (d : α) (m : List (Nat × α)) : Prop :=
  m.Pairwise (fun x y => x.1 < y.1) ∧ ∀ c ∈ m, c.2 ≠ d

/-- The canonical form of TxBuf (entry 10). -/
abbrev Memory.wf (m : Memory) : Prop := Sparse.wf 0#8 m

/-- What an unlisted byte of TxBuf reads as: its reset value (R29). -/
def Memory.unlisted : Byte := 0#8

/-- `N_BYTES = LED_COUNT × BPP` (R7). -/
def nBytes (p : Params) : Nat := p.ledCount * Config.bpp

/-- The number of payload bits of a frame, 8 × N_BYTES (R160). -/
def payloadBits (p : Params) : Nat := 8 * nBytes p

/-- `Pix[i]` (R10). -/
def getPix (s : State) (i : Nat) : Pixel := Sparse.get Pixel.reset s.pix i

/-- `Pix[i] <- p` (R10). -/
def setPix (i : Nat) (p : Pixel) (s : State) : State := { s with pix := Sparse.set Pixel.reset s.pix i p }

/-- `TxBuf[k]` (R10). -/
def getTx (s : State) (k : Nat) : Byte := Sparse.get Memory.unlisted s.txBuf k

/-- `result(code)`: record the code and end the command (R10, R220). This is all that stands in place of taking an
exception (R227), and there is nothing to return from (R228). -/
def finish (c : ResultCode) (s : State) : State := { s with result := c }

/-- The check of `Init` that every command but INIT makes before its own (R225, step 4; R255). -/
def requireInit (k : State → State) (s : State) : State := if s.init then k s else finish .notInit s

/-- `Enc <- {EncodingBytes, 0}` (R156, R165, R200). -/
def encoderStart (s : State) : State := { s with phase := .encodingBytes, bitpos := 0 }

/-- Answer the sink: the response becomes an observation (R15, R94). -/
def respond (r : Response) (s : State) : State := { s with trace := s.trace ++ [.response r] }

/-- The draw `chanOk` (R190): the environment's next answer, or the free value of this draw (entry 3). -/
def chanOkAnswer (e : Env) : Bool := e.chanOk.headD (Config.chanOk e.drawn)

/-- The draw `chanAccept` (R201): the environment's next answer, or the free value of this draw (entry 3). -/
def chanAcceptAnswer (e : Env) : Bool := e.chanAccept.headD (Config.chanAccept e.drawn)

/-- The environment after a `chanOk` draw. -/
def takeChanOk (s : State) : State :=
  { s with env := { s.env with chanOk := s.env.chanOk.tail, drawn := s.env.drawn + 1 } }

/-- The environment after a `chanAccept` draw. -/
def takeChanAccept (s : State) : State :=
  { s with env := { s.env with chanAccept := s.env.chanAccept.tail, drawn := s.env.drawn + 1 } }

/-- Reset (R250): every piece of the block's state takes its reset value. The parameters are constants (R251); the
agents' pending steps and answers, and what was observed, are not the block's (entry 13). -/
def resetBlock (s : State) : State :=
  { State.resetWith s.params with env := s.env, inputs := s.inputs, trace := s.trace }

end Sys2Proof.Machine
end

