-- ==== Sys2Proof/Machine/Operands.lean ====
section
/-! DEFINITION. The operands of the commands: brightness, selector, pixel index and proportions (R83), and the clamp
of a proportion word (R114). -/

namespace Sys2Proof.Machine

/-- Brightness, `b = min(IMM8, 100)` (R83). -/
def brightness (bfield : Nat) : Nat := min bfield 100

/-- The pixel index, `Reg(IDX)`, all 32 bits unsigned (R83). -/
def pixelIndex (s : State) : Nat := s.idx.toNat

/-- The word of 1.0 (R114). -/
def oneWord : Word := 0x3F800000#32

/-- The word of +∞ (R114). -/
def infWord : Word := 0x7F800000#32

/-- `clampProp(w)` (R114). -/
def clampProp (w : Word) : Word :=
  if w.getLsbD 31 then 0#32
  else if infWord < w then 0#32
  else if oneWord < w then oneWord
  else w

/-- A canonical proportion word: 0x00000000 to 0x3F800000 (R27). -/
abbrev CanonicalWord (w : Word) : Prop := w ≤ oneWord

/-- Three canonical words (R27). -/
abbrev CanonicalProportion (p : Proportion) : Prop := CanonicalWord p.r ∧ CanonicalWord p.g ∧ CanonicalWord p.b

/-- The proportions of SET_PIXEL: the three registers, decoded and clamped (R83, R131). -/
def propOperand (s : State) : Proportion := ⟨clampProp s.propR, clampProp s.propG, clampProp s.propB⟩

end Sys2Proof.Machine
end

