-- ==== Sys2Proof/Machine/ColorModel.lean ====
section
/-! DEFINITION. The colour model (R110 to R119): gamma lookup, the value of a proportion word, the gamma index and
`computeColor8`. -/

namespace Sys2Proof.Machine

/-- What a binary32 word encodes (R113). A finite value is `(-1)^negative * num * 2^(-149)`, exactly (entry 14). -/
inductive Binary32
  | finite (negative : Bool) (num : Nat)
  | infinity (negative : Bool)
  | nan
  deriving DecidableEq, Repr

/-- The exponent field `w[30:23]` (R54, R113). -/
def expField (w : Word) : Nat := (w.extractLsb' 23 8).toNat

/-- The fraction field `w[22:0]` (R54, R113). -/
def fracField (w : Word) : Nat := (w.extractLsb' 0 23).toNat

/-- The magnitude of a finite word in units of 2^(-149) (R113): `f` if e = 0, and otherwise
`(2^23 + f) * 2^(e - 150)`, which is `(2^23 + f) * 2^(e - 1)` of those units. -/
def magnitude (w : Word) : Nat :=
  if expField w = 0 then fracField w else (2 ^ 23 + fracField w) * 2 ^ (expField w - 1)

/-- `value(w)` (R113). -/
def value (w : Word) : Binary32 :=
  if expField w ≤ 254 then .finite (w.getLsbD 31) (magnitude w)
  else if fracField w = 0 then .infinity (w.getLsbD 31)
  else .nan

/-- `roundHalfUp(num / den) = floor(num / den + 1/2)` (R115), for den > 0, in integers. -/
def roundHalfUp (num den : Nat) : Nat := (2 * num + den) / (2 * den)

/-- `clamp(x, lo, hi)` (R9). -/
def clamp (x lo hi : Nat) : Nat := min (max x lo) hi

/-- `gammaIndex(c, b)` of a canonical word (R116): the exact product `value(c) * b`, rounded half up, clamped. -/
def gammaIndex (c : Word) (b : Nat) : Nat := clamp (roundHalfUp (magnitude c * b) (2 ^ 149)) 0 100

/-- `gammaLookup(i)`, defined for `0 ≤ i ≤ 100` (R112); no caller passes another index (entry 11). -/
def gammaLookup (p : Params) (i : Nat) : Byte := p.gamma.getD i 0#8

/-- One channel of `computeColor8` (R117, R119 (b)). -/
def channel8 (p : Params) (c : Word) (b : Nat) : Byte := gammaLookup p (gammaIndex c b)

/-- `computeColor8(prop, b)` (R117). -/
def computeColor8 (p : Params) (prop : Proportion) (b : Nat) : Color8 :=
  ⟨channel8 p prop.r b, channel8 p prop.g b, channel8 p prop.b b⟩

end Sys2Proof.Machine
end

