-- ==== Sys2Proof/Machine/TimingProfile.lean ====
section
/-! DEFINITION. Timing profiles, the latched symbol words (R180 to R189), and INIT (R190). -/

namespace Sys2Proof.Machine

/-- `NUM_PROFILES` (R7): how many records `PROFILES` has (entry 12). -/
def numProfiles (p : Params) : Nat := p.profiles.length

/-- The chip family of a selector (R180); no family from NUM_PROFILES on. The name has no effect: what a profile does
is its record. -/
def chipFamily (p : Params) (sel : Nat) : Option ChipFamily :=
  if numProfiles p ≤ sel then none
  else
    match sel with
    | 0 => some .ws2812
    | 1 => some (.ws2812b 1)
    | 2 => some (.ws2812b 2)
    | 3 => some (.ws2812b 3)
    | 4 => some (.ws2813 1)
    | 5 => some (.ws2813 2)
    | 6 => some (.ws2813 3)
    | 7 => some .sk6812
    | 8 => some .thirdParty
    | _ => some .further

/-- `PROFILES[s]` (R181), for s < NUM_PROFILES; no rule reads another record (entry 11). -/
def profile (p : Params) (sel : Nat) : Profile := p.profiles.getD sel default

/-- `ticks(t) = floor(t * CLK_HZ / 1_000_000_000)`, exact integers (R184). -/
def ticks (p : Params) (t : Nat) : Nat := t * p.clkHz / 1000000000

/-- Half of the reset gap, `h = floor(TRS_t / 2)` (R187). -/
def halfGap (p : Params) (sel : Nat) : Nat := ticks p (profile p sel).trs / 2

/-- `Tick.W0` for a profile (R185). -/
def wordW0 (p : Params) (sel : Nat) : SymbolWord :=
  ⟨.high, ticks p (profile p sel).t0h, .low, ticks p (profile p sel).t0l⟩

/-- `Tick.W1` for a profile (R186). -/
def wordW1 (p : Params) (sel : Nat) : SymbolWord :=
  ⟨.high, ticks p (profile p sel).t1h, .low, ticks p (profile p sel).t1l⟩

/-- `Tick.WR` for a profile (R187). -/
def wordWR (p : Params) (sel : Nat) : SymbolWord := ⟨.low, halfGap p sel, .low, halfGap p sel⟩

/-- The three symbol words of a profile (R91). -/
def profileTicks (p : Params) (sel : Nat) : Ticks := ⟨wordW0 p sel, wordW1 p sel, wordWR p sel⟩

/-- A duration one segment can carry: `[1, DUR_FIELD_MAX]` (R188). -/
abbrev DurationOk (p : Params) (d : Nat) : Prop := 1 ≤ d ∧ d ≤ p.durFieldMax

/-- `profileOk(s)` (R188). -/
abbrev ProfileOk (p : Params) (sel : Nat) : Prop :=
  DurationOk p (ticks p (profile p sel).t0h) ∧ DurationOk p (ticks p (profile p sel).t0l) ∧
    DurationOk p (ticks p (profile p sel).t1h) ∧ DurationOk p (ticks p (profile p sel).t1l) ∧
    DurationOk p (halfGap p sel)

/-- What a successful INIT writes besides RESULT (R190). -/
def latchProfile (sel : Nat) (s : State) : State :=
  { s with sel := sel, tick := profileTicks s.params sel, init := true }

/-- INIT from the draw on (R190): `chanOk` is drawn, and either nothing else changes or the profile is latched. -/
def initDraw (sel : Nat) (s : State) : State :=
  if chanOkAnswer s.env then finish .ok (latchProfile sel (takeChanOk s))
  else finish .initError (takeChanOk s)

/-- INIT as one state change (R190). -/
def initEffect (sel : Nat) (s : State) : State :=
  if s.init then finish .initError s
  else if numProfiles s.params ≤ sel then finish .initError s
  else if ProfileOk s.params sel then initDraw sel s
  else finish .initError s

/-- INIT (R190). -/
def execInit (sel : Nat) (s : State) : Host.Outcome State Fault Refusal := .next (initEffect sel s)

end Sys2Proof.Machine
end

