-- ==== Sys2Proof/Machine/PixelBuffer.lean ====
section
/-! DEFINITION. The pixel commands SET_PIXEL and MOD_BRIGHT (R130 to R136), and the internal operations pack and
blank (R140 to R144). -/

namespace Sys2Proof.Machine

/-- SET_PIXEL after the common checks (R131). -/
def setPixelEffect (bfield : Nat) (s : State) : State :=
  if s.params.ledCount ≤ pixelIndex s then finish .indexError s
  else finish .ok (setPix (pixelIndex s)
    ⟨propOperand s, computeColor8 s.params (propOperand s) (brightness bfield)⟩ s)

/-- SET_PIXEL (R131). -/
def execSetPixel (bfield : Nat) (s : State) : Host.Outcome State Fault Refusal :=
  .next (requireInit (setPixelEffect bfield) s)

/-- The stored proportions of a pixel, which MOD_BRIGHT keeps (R135). -/
def storedProp (s : State) (i : Nat) : Proportion := (getPix s i).prop

/-- MOD_BRIGHT after the common checks (R135). -/
def modBrightEffect (bfield : Nat) (s : State) : State :=
  if s.params.ledCount ≤ pixelIndex s then finish .indexError s
  else finish .ok (setPix (pixelIndex s)
    ⟨storedProp s (pixelIndex s), computeColor8 s.params (storedProp s (pixelIndex s)) (brightness bfield)⟩ s)

/-- MOD_BRIGHT (R135). -/
def execModBright (bfield : Nat) (s : State) : Host.Outcome State Fault Refusal :=
  .next (requireInit (modBrightEffect bfield) s)

/-- `c8[o]` for a channel name o (R140). -/
def channelOf (c : Color8) : Channel → Byte
  | .r => c.r
  | .g => c.g
  | .b => c.b

/-- The channel at place j of an order (o0, o1, o2) (R140); j is 0, 1 or 2. -/
def orderAt (o : ChannelOrder) (j : Nat) : Channel :=
  match o, j with
  | .rgb, 0 => .r
  | .rgb, 1 => .g
  | .rgb, _ => .b
  | .rbg, 0 => .r
  | .rbg, 1 => .b
  | .rbg, _ => .g
  | .grb, 0 => .g
  | .grb, 1 => .r
  | .grb, _ => .b
  | .gbr, 0 => .g
  | .gbr, 1 => .b
  | .gbr, _ => .r
  | .brg, 0 => .b
  | .brg, 1 => .r
  | .brg, _ => .g
  | .bgr, 0 => .b
  | .bgr, 1 => .g
  | .bgr, _ => .r

/-- The byte that pack writes to `TxBuf[k]` (R140): k = 3i + j takes channel o_j of pixel i. -/
def packByte (s : State) (k : Nat) : Byte :=
  channelOf (getPix s (k / Config.bpp)).c8 (orderAt (profile s.params s.sel).order (k % Config.bpp))

/-- `pack()` (R140): every byte of TxBuf, in one step. -/
def pack (s : State) : State :=
  { s with txBuf := Sparse.tabulate Memory.unlisted (nBytes s.params) (packByte s) }

/-- A pixel with its Color8 blanked and its proportions kept (R143). -/
def blankPixel (s : State) (i : Nat) : Pixel := ⟨(getPix s i).prop, ⟨0#8, 0#8, 0#8⟩⟩

/-- `blank()` (R143): every Color8 and every byte of TxBuf becomes zero, in one step. -/
def blank (s : State) : State :=
  { s with
    pix := Sparse.tabulate Pixel.reset s.params.ledCount (blankPixel s)
    txBuf := Sparse.tabulate Memory.unlisted (nBytes s.params) (fun _ => 0#8) }

end Sys2Proof.Machine
end

