-- ==== Sys2Proof/Machine/FrameControl.lean ====
section
/-! DEFINITION. Frame control: TRANSMIT (R201) and WIPE (R205). -/

namespace Sys2Proof.Machine

/-- `startFrame()` (R200). -/
def startFrame (s : State) : State := { encoderStart s with busy := true }

/-- The part TRANSMIT and WIPE share (R201, R205): check `Busy`, draw `chanAccept`, and if both allow it fill the
TxBuffer by `fill` and start the frame. -/
def frameEffect (fill : State → State) (s : State) : State :=
  if s.busy then finish .transmitError s
  else if chanAcceptAnswer s.env then finish .ok (startFrame (fill (takeChanAccept s)))
  else finish .transmitError (takeChanAccept s)

/-- TRANSMIT (R201). -/
def execTransmit (s : State) : Host.Outcome State Fault Refusal := .next (requireInit (frameEffect pack) s)

/-- WIPE (R205). -/
def execWipe (s : State) : Host.Outcome State Fault Refusal := .next (requireInit (frameEffect blank) s)

end Sys2Proof.Machine
end

