-- ==== Sys2Proof/Machine/PulseEncoder.lean ====
section
/-! DEFINITION. The resumable two-phase encoder: ENCODE (R150 to R159) and ABORT (R165). -/

namespace Sys2Proof.Machine

/-- Payload bit k of the frame, MSB first (R150). -/
def payloadBit (s : State) (k : Nat) : Bool := (getTx s (k / 8)).getLsbD (7 - k % 8)

/-- `bitWord(k)` (R150). -/
def bitWord (s : State) (k : Nat) : SymbolWord := if payloadBit s k then s.tick.w1 else s.tick.w0

/-- The `while` loop of R151: emit payload words until the payload or the capacity is used up. The state is read
only for TxBuf and Tick. `fuel` bounds the iterations; each moves `bitpos` one bit on, so that the words left are
enough (`encodeBytes`). -/
def payloadLoop (s : State) (cap : Nat) : Nat → Nat → List SymbolWord → Nat × List SymbolWord
  | 0, bitpos, out => (bitpos, out)
  | fuel + 1, bitpos, out =>
    if bitpos < payloadBits s.params ∧ out.length < cap then
      payloadLoop s cap fuel (bitpos + 1) (out ++ [bitWord s bitpos])
    else (bitpos, out)

/-- Phase EncodingReset of R151, with the words emitted so far in this request (R156, R157). -/
def encodeReset (cap : Nat) (out : List SymbolWord) (s : State) : State :=
  if out.length < cap then
    respond ⟨out ++ [s.tick.wr], .complete⟩ { encoderStart s with busy := false }
  else respond ⟨out, .full⟩ s

/-- The end of phase EncodingBytes of R151, after the loop (R155, R157). -/
def encodeAfterLoop (cap : Nat) (r : Nat × List SymbolWord) (s : State) : State :=
  if r.1 < payloadBits s.params then respond ⟨r.2, .full⟩ { s with bitpos := r.1 }
  else encodeReset cap r.2 { s with bitpos := r.1, phase := .encodingReset }

/-- Phase EncodingBytes of R151 (R154). -/
def encodeBytes (cap : Nat) (s : State) : State :=
  encodeAfterLoop cap (payloadLoop s cap (payloadBits s.params - s.bitpos) s.bitpos []) s

/-- ENCODE as one state change (R151). -/
def encodeEffect (cap : Nat) (s : State) : State :=
  if s.busy then
    match s.phase with
    | .encodingBytes => encodeBytes cap s
    | .encodingReset => encodeReset cap [] s
  else respond ⟨[], .idle⟩ s

/-- ENCODE (R151). It is not a host command: it needs no INIT and writes no RESULT. -/
def execEncode (cap : Nat) (s : State) : Host.Outcome State Fault Refusal := .next (encodeEffect cap s)

/-- ABORT after the common checks (R165). -/
def abortEffect (s : State) : State := finish .ok { encoderStart s with busy := false }

/-- ABORT (R165). -/
def execAbort (s : State) : Host.Outcome State Fault Refusal := .next (requireInit abortEffect s)

end Sys2Proof.Machine
end

