-- ==== Sys2Proof/Machine/Dispatch.lean ====
section
/-! DEFINITION. The meaning of each instruction. -/

namespace Sys2Proof.Machine

/-- Each instruction to its meaning. -/
def exec (i : Instr) (s : State) : Host.Outcome State Fault Refusal :=
  match i with
  | .init sel => Sys2Proof.Machine.execInit sel s
  | .setPixel bfield => Sys2Proof.Machine.execSetPixel bfield s
  | .modBright bfield => Sys2Proof.Machine.execModBright bfield s
  | .transmit => Sys2Proof.Machine.execTransmit s
  | .wipe => Sys2Proof.Machine.execWipe s
  | .abort => Sys2Proof.Machine.execAbort s
  | .encode cap => Sys2Proof.Machine.execEncode cap s

end Sys2Proof.Machine
end

