-- ==== Sys2Proof/Machine/Flags.lean ====
section
/-! DEFINITION. The result codes and the STATUS word (R24, R221). The block has no other flags (R35). -/

namespace Sys2Proof.Machine

/-- The code of a result (R221). -/
def resultBits : ResultCode → BitVec 4
  | .ok => 0#4
  | .indexError => 1#4
  | .initError => 2#4
  | .transmitError => 3#4
  | .notInit => 4#4
  | .illegal => 5#4

/-- STATUS.PHASE: 0 = EncodingBytes, 1 = EncodingReset (R24). -/
def phaseBit : Phase → BitVec 1
  | .encodingBytes => 0#1
  | .encodingReset => 1#1

/-- The code of a response flag (R95). Code 3 is never produced. -/
def flagBits : ResponseFlag → BitVec 2
  | .idle => 0#2
  | .full => 1#2
  | .complete => 2#2

/-- `STATUS` (R24): [31:16] 0, [15:8] PROFILE, [7] 0, [6] PHASE, [5] BUSY, [4] INIT, [3:0] RESULT. -/
def statusWord (s : State) : Word :=
  0#16 ++ (BitVec.ofNat 8 s.sel ++ (0#1 ++ (phaseBit s.phase ++
    (BitVec.ofBool s.busy ++ (BitVec.ofBool s.init ++ resultBits s.result)))))

end Sys2Proof.Machine
end

