-- ==== Sys2Proof/Machine/HostPort.lean ====
section
/-! DEFINITION. The two ports: the host's register window (R22 to R26, R50 to R52), command words (R80), and the step
each pending input makes (R70). -/

namespace Sys2Proof.Machine

/-- The eight host registers (R22). -/
inductive Reg
  | cmd
  | status
  | idx
  | propR
  | propG
  | propB
  | cursor
  | info
  deriving DecidableEq, Repr

/-- `off(reg)` (R22, R96). -/
def regOffset : Reg → Nat
  | .cmd => 0x00
  | .status => 0x04
  | .idx => 0x08
  | .propR => 0x0C
  | .propG => 0x10
  | .propB => 0x14
  | .cursor => 0x18
  | .info => 0x1C

/-- The register at an offset (R22). -/
def regAt (off : Nat) : Option Reg :=
  match off with
  | 0x00 => some .cmd
  | 0x04 => some .status
  | 0x08 => some .idx
  | 0x0C => some .propR
  | 0x10 => some .propG
  | 0x14 => some .propB
  | 0x18 => some .cursor
  | 0x1C => some .info
  | _ => none

/-- The size of the register window in bytes (R50). -/
def windowBytes : Nat := 0x20

/-- What a read of a register returns (R22, R25, R26). -/
def readReg (s : State) : Reg → Word
  | .cmd => 0#32
  | .status => statusWord s
  | .idx => s.idx
  | .propR => s.propR
  | .propG => s.propG
  | .propB => s.propB
  | .cursor => BitVec.ofNat 32 s.bitpos
  | .info => BitVec.ofNat 32 s.params.ledCount

/-- A command word (R80, R98): decoded and carried out in one step. An ILLEGAL word does `result(ILLEGAL)` (R85 to
R87). -/
def command (v : Word) (s : State) : Host.Outcome State Fault Refusal :=
  match decodeCmd v with
  | .ok i => exec i s
  | .error _ => .next (finish .illegal s)

/-- A write to a register (R22, R23, R25, R59): CMD executes, the operand registers store, the others ignore. -/
def writeReg (r : Reg) (v : Word) (s : State) : Host.Outcome State Fault Refusal :=
  match r with
  | .cmd => command v s
  | .status => .next s
  | .idx => .next { s with idx := v }
  | .propR => .next { s with propR := v }
  | .propG => .next { s with propG := v }
  | .propB => .next { s with propB := v }
  | .cursor => .next s
  | .info => .next s

/-- A read of a register: the value becomes an observation and nothing else happens (R15, R25). -/
def readStep (r : Reg) (s : State) : State :=
  { s with trace := s.trace ++ [.readValue (regOffset r) (readReg s r)] }

/-- A whole aligned access to a register (R50). -/
def regAccess (r : Reg) (op : BusOp) (s : State) : Host.Outcome State Fault Refusal :=
  match op with
  | .read => .next (readStep r s)
  | .write v => writeReg r v s

/-- A host access of `size` bytes at an offset from LPE_BASE (R50 to R52). -/
def hostAccess (off size : Nat) (op : BusOp) (s : State) : Host.Outcome State Fault Refusal :=
  if windowBytes ≤ off then .refused .outsideWindow
  else if size ≠ 4 then .refused .partialAccess
  else
    match regAt off with
    | some r => regAccess r op s
    | none => .refused .partialAccess

/-- A host access at a bus address: the block decodes `[LPE_BASE, LPE_BASE + 0x1F]` (R50, R52). -/
def busAccess (addr size : Nat) (op : BusOp) (s : State) : Host.Outcome State Fault Refusal :=
  if addr < s.params.lpeBase then .refused .outsideWindow
  else hostAccess (addr - s.params.lpeBase) size op s

/-- The step of one pending input (R70). -/
def serve (x : Input) (s : State) : Host.Outcome State Fault Refusal :=
  match x with
  | .host off size op => hostAccess off size op s
  | .bus addr size op => busAccess addr size op s
  | .request v => exec (decodeRequest v) s
  | .reset => .next (resetBlock s)

/-- The next step of the block: the oldest pending input is taken and served. With nothing pending the block waits and
keeps all its state (R233, R252; entry 2). -/
def serveNext (s : State) : Host.Outcome State Fault Refusal :=
  match s.inputs with
  | [] => .next s
  | x :: rest => serve x { s with inputs := rest }

/-- The input that brings a word to a port: a write to CMD (R80) or a request on the symbol port (R93). -/
def portInput (p : Port) (v : Word) : Input :=
  match p with
  | .cmd => .host 0x00 4 (.write v)
  | .symbol => .request v

/-- The input that brings a table word to the block (entry 5). -/
def tableInput (nbits w : Nat) : Input :=
  portInput (portOfTableWord (BitVec.ofNat 32 (w % 2 ^ nbits))) (BitVec.ofNat 32 (w % 2 ^ nbits))

end Sys2Proof.Machine
end

