-- ==== Sys2Proof/Machine/Step.lean ====
section
/-! DEFINITION. The step of the machine, and how an instruction word comes to it. -/

namespace Sys2Proof.Machine

/-- One atomic step (R70). -/
def step (s : State) : Host.Outcome State Fault Refusal := serveNext s

/-- `s` with an instruction word as its very next input (entry 5). -/
def State.withFetchWord (s : State) (nbits w : Nat) : State := { s with inputs := tableInput nbits w :: s.inputs }

end Sys2Proof.Machine
end

