-- ==== Sys2Proof/Machine/Assembler.lean ====
section
/-! DEFINITION. The assembler statements (R96) and the pseudo-instructions (R97), as the inputs they stand for. -/

namespace Sys2Proof.Machine

/-- A statement of R96. -/
inductive Stmt
  /-- A command, or `ENCODE #c`. -/
  | instr (i : Instr)
  /-- `W <reg>, <v>`. -/
  | write (r : Reg) (v : Word)
  /-- `R <reg>`. -/
  | read (r : Reg)
  deriving DecidableEq, Repr

/-- The encoding column of R96. -/
def Stmt.input : Stmt → Input
  | .instr i => portInput (encode i).1 (encode i).2
  | .write r v => .host (regOffset r) 4 (.write v)
  | .read r => .host (regOffset r) 4 .read

/-- A pseudo-instruction of R97. `waitIdlePoll` is one turn of the loop `waitIdle`; the loop itself is the host's
program. -/
inductive Pseudo
  | init (sel : Nat)
  | setPixelColor (i : Word) (r g b : Word) (br : Nat)
  | modifyPixelBrightness (i : Word) (br : Nat)
  | transmitColors
  | wipe
  | reset
  | waitIdlePoll
  deriving DecidableEq, Repr

/-- The expansion column of R97. -/
def Pseudo.expand : Pseudo → List Stmt
  | .init sel => [.instr (.init sel)]
  | .setPixelColor i r g b br =>
    [.write .idx i, .write .propR r, .write .propG g, .write .propB b, .instr (.setPixel br)]
  | .modifyPixelBrightness i br => [.write .idx i, .instr (.modBright br)]
  | .transmitColors => [.instr .transmit]
  | .wipe => [.instr .wipe]
  | .reset => [.instr .abort]
  | .waitIdlePoll => [.read .status]

/-- The inputs a pseudo-instruction gives the block, in order. Inputs of other agents may fall between them (R97). -/
def Pseudo.inputs (p : Pseudo) : List Input := p.expand.map Stmt.input

/-- `waitIdle` leaves its loop when bit 5 of the STATUS value it read is 0 (R97). -/
def waitIdleDone (status : Word) : Bool := !status.getLsbD 5

/-- A float literal of the non-negative decimal value num / den stands for the word w (R96): the value is exactly
the word's. -/
def floatLiteral (num den : Nat) (w : Word) : Bool :=
  decide (den ≠ 0) && decide (value w = .finite false (magnitude w)) &&
    decide (magnitude w * den = num * 2 ^ 149)

end Sys2Proof.Machine
end

