-- ==== Sys2Proof/Safety.lean ====
section
/-! DEFINITION. The terms claims use: the invariant of the block (R32 and the widths of `10_state.md`), the frame stream
(R160), what is left of it, what has been emitted, runs of ENCODE requests, and executions with the fairness assumption
on the sink (R266). -/

namespace Sys2Proof.Machine

/-- The invariant of the block: legal parameters (R7), canonical stores within their ranges (R27, R29), canonical
proportions (R27), the encoder relations of R31 and R32, and the latched profile of R33 and R190. A state that breaks it
is unreachable. -/
structure BlockInv (s : State) : Prop where
  legal : s.params.Legal
  pixForm : Sparse.wf Pixel.reset s.pix
  pixRange : ∀ c ∈ s.pix, c.1 < s.params.ledCount
  pixCanonical : ∀ c ∈ s.pix, CanonicalProportion c.2.prop
  txForm : Memory.wf s.txBuf
  txRange : ∀ c ∈ s.txBuf, c.1 < nBytes s.params
  cursor : s.bitpos ≤ payloadBits s.params
  atReset : s.phase = .encodingReset → s.bitpos = payloadBits s.params
  idle : s.busy = false → s.phase = .encodingBytes ∧ s.bitpos = 0
  inPayload : s.busy = true → s.phase = .encodingBytes → s.bitpos < payloadBits s.params
  uninitialised : s.init = false → s.busy = false ∧ s.sel = 0 ∧ s.tick = Ticks.reset
  latched : s.init = true →
    s.sel < numProfiles s.params ∧ ProfileOk s.params s.sel ∧ s.tick = profileTicks s.params s.sel

/-- The payload words of the frame, in wire order (R56, R160). -/
def payloadStream (s : State) : List SymbolWord := (List.range (payloadBits s.params)).map (bitWord s)

/-- The frame stream S (R160). -/
def frameStream (s : State) : List SymbolWord := payloadStream s ++ [s.tick.wr]

/-- What the frame in flight has still to emit; nothing when no frame is in flight. -/
def remaining (s : State) : List SymbolWord := if s.busy then (frameStream s).drop s.bitpos else []

/-- The symbol words an observation hands the sink. -/
def eventWords : Event → List SymbolWord
  | .readValue _ _ => []
  | .response r => r.words

/-- All symbol words handed to the sink, in order (R15). A whole frame is among them only if the sink keeps asking: see
`SinkFair` (R266). -/
def emitted (trace : List Event) : List SymbolWord := trace.flatMap eventWords

/-- A run of ENCODE requests with the given capacities (R161). ENCODE never stops, so the last case is not taken. -/
def encodeRun : List Nat → State → State
  | [], s => s
  | cap :: caps, s =>
    match exec (.encode cap) s with
    | .next t => encodeRun caps t
    | _ => s

/-- The flag of the last response, if the last observation is one. -/
def lastFlag (trace : List Event) : Option ResponseFlag :=
  match trace.getLast? with
  | some (.response r) => some r.flag
  | _ => none

/-- The duration of a symbol word in ticks: both segments (R271). -/
def wordTicks (w : SymbolWord) : Nat := w.dur0 + w.dur1

/-- The nominal wire time of the frame in ticks, informative (R271). -/
def frameTicks (s : State) : Nat := ((frameStream s).map wordTicks).sum

/-- The number of 1 bits of the payload (R271). -/
def oneBits (s : State) : Nat := (List.range (payloadBits s.params)).countP (payloadBit s)

/-- The state change of an instruction: `exec` always gives a next state (R220), and this is it. -/
def effect : Instr → State → State
  | .init sel, s => initEffect sel s
  | .setPixel bfield, s => requireInit (setPixelEffect bfield) s
  | .modBright bfield, s => requireInit (modBrightEffect bfield) s
  | .transmit, s => requireInit (frameEffect pack) s
  | .wipe, s => requireInit (frameEffect blank) s
  | .abort, s => requireInit abortEffect s
  | .encode cap, s => encodeEffect cap s

/-- `s` with one more pending input, the next to be served. -/
def push (x : Input) (s : State) : State := { s with inputs := x :: s.inputs }

/-- The instruction a host access brings: a whole write to CMD of a legal command word (R80, R98). -/
def hostInstr (off size : Nat) (op : BusOp) : Option Instr :=
  match op with
  | .read => none
  | .write v =>
    if off = 0x00 ∧ size = 4 then
      match decodeCmd v with
      | .ok i => some i
      | .error _ => none
    else none

/-- The instruction an input brings, if it brings one. -/
def inputInstr (p : Params) : Input → Option Instr
  | .host off size op => hostInstr off size op
  | .bus addr size op => if addr < p.lpeBase then none else hostInstr (addr - p.lpeBase) size op
  | .request v => some (decodeRequest v)
  | .reset => none

/-- `s` after the agents have issued `new`, which waits behind what is pending (R70, R71). -/
def State.arrive (new : List Input) (s : State) : State := { s with inputs := s.inputs ++ new }

/-- An infinite execution: `a n` is what the agents issue just before step n, and `ex n` the state before that. The
interleaving of the agents is the choice of `a`; where nothing is pending the step is a wait (entry 16). -/
def Execution (a : Nat → List Input) (ex : Nat → State) : Prop := ∀ n, step ((ex n).arrive (a n)) = .next (ex (n + 1))

/-- The input that step n of an execution serves, if it serves one. -/
def servedAt (a : Nat → List Input) (ex : Nat → State) (n : Nat) : Option Input := ((ex n).arrive (a n)).inputs.head?

/-- An ENCODE request with `cap ≥ 1`: the only input that moves a frame on (R163, R266). -/
def asksForWords : Input → Bool
  | .host _ _ _ => false
  | .bus _ _ _ => false
  | .request v => decide (1 ≤ v.toNat)
  | .reset => false

/-- An input that ends a frame before it completes (R163): ABORT or reset. -/
def cutsFrame (p : Params) (x : Input) : Prop := x = .reset ∨ inputInstr p x = some .abort

/-- THE ASSUMPTION OF R266, weak fairness of the sink: while `Busy = 1`, a request with `cap ≥ 1` is eventually issued. A
request and its response are one step (R70), so it is issued at the step that serves it. It is a premise of the claim
that frames complete, and no part of the machine (D38). -/
def SinkFair (a : Nat → List Input) (ex : Nat → State) : Prop :=
  ∀ n, (ex n).busy = true → ∃ m, n ≤ m ∧ ((ex m).busy = false ∨ (servedAt a ex m).any asksForWords = true)

end Sys2Proof.Machine
end

