-- ==== Sys2Proof/Certificates/Slice0/Obligations.lean ====
section
/-! DEFINITION. What is to be proved about the machine: statements, none of them proved here. `push x s` is the state s
with the input x as the next to be served, so that a statement about `step (push x s)` for every s is one about every
state with x at the head of its pending inputs. -/

open Sys2Proof Sys2Proof.Machine

/-! ## Encoding -/

/-- R81, R82, R93, R98: decoding the word of a well-formed instruction, at the port it goes to, gives the instruction
back, with every operand value the encoding admits. -/
def Obligations.DecodeOfEncodeIsIdentity : Prop :=
  ∀ i : Instr, i.wf = true → decode (encode i).1 (encode i).2 = .ok i

/-- R88, R98, R99: every word a port's decoder accepts is the encoding of the instruction it stands for, and that
instruction is well formed. -/
def Obligations.EncodeOfDecodeIsIdentity : Prop :=
  ∀ (p : Port) (v : Word) (i : Instr), decode p v = .ok i → i.wf = true ∧ encode i = (p, v)

/-- R99: the match and mask table decides decoding; at most one row matches a word; a word that no row matches is ILLEGAL;
every word is a legal ENCODE request. -/
def Obligations.MatchMaskTableDecidesDecoding : Prop :=
  ∀ v : Word,
    (decodeCmd v = .ok (.init (v.toNat / 256 % 256)) ↔ v &&& 0xFFFF00FF#32 = 0x00000001#32) ∧
    (decodeCmd v = .ok (.setPixel (v.toNat / 256 % 256)) ↔ v &&& 0xFFFF00FF#32 = 0x00000002#32) ∧
    (decodeCmd v = .ok (.modBright (v.toNat / 256 % 256)) ↔ v &&& 0xFFFF00FF#32 = 0x00000003#32) ∧
    (decodeCmd v = .ok .transmit ↔ v &&& 0xFFFFFFFF#32 = 0x00000004#32) ∧
    (decodeCmd v = .ok .wipe ↔ v &&& 0xFFFFFFFF#32 = 0x00000005#32) ∧
    (decodeCmd v = .ok .abort ↔ v &&& 0xFFFFFFFF#32 = 0x00000006#32) ∧
    ((∃ e, decodeCmd v = .error e) ↔ ∀ r ∈ opcodeRows, r.matches v = false) ∧
    (∀ r ∈ opcodeRows, ∀ r' ∈ opcodeRows, r.matches v = true → r'.matches v = true → r = r') ∧
    decode .symbol v = .ok (.encode v.toNat)

/-- R85, R86, R87: a command word with RSV ≠ 0, a reserved opcode, or an immediate where there must be none does
result(ILLEGAL) and changes nothing else; RSV is checked first; every IMM8 of the first three commands decodes. -/
def Obligations.IllegalWordsOnlyRecordIllegal : Prop :=
  ∀ (v : Word) (s : State),
    ((v.toNat / 65536 ≠ 0 ∨ v.toNat % 256 = 0 ∨ 7 ≤ v.toNat % 256 ∨
        (4 ≤ v.toNat % 256 ∧ v.toNat / 256 % 256 ≠ 0)) →
      step (push (.host 0x00 4 (.write v)) s) = .next { s with result := .illegal }) ∧
    (v.toNat / 65536 ≠ 0 → decodeCmd v = .error .reservedBits) ∧
    (v.toNat / 65536 = 0 → 1 ≤ v.toNat % 256 → v.toNat % 256 ≤ 3 → ∃ i, decodeCmd v = .ok i)

/-- R99: words written out from the table decode to the instructions they stand for. -/
def Obligations.SampleWordsDecode : Prop :=
  decode .cmd 0b00000000000000000000011100000001#32 = .ok (.init 7) ∧
  decode .cmd 0b00000000000000000010110100000010#32 = .ok (.setPixel 45) ∧
  decode .cmd 0b00000000000000000110010000000011#32 = .ok (.modBright 100) ∧
  decode .cmd 0b00000000000000000000000000000100#32 = .ok .transmit ∧
  decode .cmd 0b00000000000000000000000000000101#32 = .ok .wipe ∧
  decode .cmd 0b00000000000000000000000000000110#32 = .ok .abort ∧
  decode .symbol 0b00000000000000000000000000011000#32 = .ok (.encode 24)

/-- R96: the encoding of each statement of the assembler syntax. -/
def Obligations.AssemblerStatementEncodings : Prop :=
  (∀ n : Nat, n < 256 →
    (Stmt.instr (.init n)).input = .host 0x00 4 (.write (BitVec.ofNat 32 (n <<< 8 ||| 0x01))) ∧
    (Stmt.instr (.setPixel n)).input = .host 0x00 4 (.write (BitVec.ofNat 32 (n <<< 8 ||| 0x02))) ∧
    (Stmt.instr (.modBright n)).input = .host 0x00 4 (.write (BitVec.ofNat 32 (n <<< 8 ||| 0x03)))) ∧
  (Stmt.instr .transmit).input = .host 0x00 4 (.write 0x00000004#32) ∧
  (Stmt.instr .wipe).input = .host 0x00 4 (.write 0x00000005#32) ∧
  (Stmt.instr .abort).input = .host 0x00 4 (.write 0x00000006#32) ∧
  (∀ c : Word, (Stmt.instr (.encode c.toNat)).input = .request c) ∧
  ∀ (r : Reg) (v : Word), (Stmt.write r v).input = .host (regOffset r) 4 (.write v) ∧
    (Stmt.read r).input = .host (regOffset r) 4 .read

/-! ## Steps and the host port -/

/-- R70, R80, R93: a write to CMD of a word that decodes to i, by offset or by bus address, and a request on the symbol
port run the decoded instruction, and the step adds nothing but taking the input. -/
def Obligations.StepRunsDecodedInstruction : Prop :=
  ∀ (v : Word) (i : Instr) (s : State),
    (decodeCmd v = .ok i →
      step (push (.host 0x00 4 (.write v)) s) = exec i s ∧
      step (push (.bus s.params.lpeBase 4 (.write v)) s) = exec i s) ∧
    step (push (.request v) s) = exec (.encode v.toNat) s

/-- R22, R25, R26: a read of each register returns its content and has no side effect. -/
def Obligations.RegisterReadsReturnContents : Prop :=
  ∀ s : State,
    let read (off : Nat) (v : Word) : Prop :=
      step (push (.host off 4 .read) s) = .next { s with trace := s.trace ++ [.readValue off v] }
    read 0x00 0x00000000#32 ∧ read 0x04 (statusWord s) ∧ read 0x08 s.idx ∧ read 0x0C s.propR ∧
      read 0x10 s.propG ∧ read 0x14 s.propB ∧ read 0x18 (BitVec.ofNat 32 s.bitpos) ∧
      read 0x1C (BitVec.ofNat 32 s.params.ledCount)

/-- R23, R25: a write stores all 32 bits as given in an operand register, at any time, and a later read returns it; a
write to a read-only register changes no state. -/
def Obligations.RegisterWritesStoreOrAreIgnored : Prop :=
  ∀ (s : State) (v : Word),
    step (push (.host 0x08 4 (.write v)) s) = .next { s with idx := v } ∧
    step (push (.host 0x0C 4 (.write v)) s) = .next { s with propR := v } ∧
    step (push (.host 0x10 4 (.write v)) s) = .next { s with propG := v } ∧
    step (push (.host 0x14 4 (.write v)) s) = .next { s with propB := v } ∧
    step (push (.host 0x04 4 (.write v)) s) = .next s ∧
    step (push (.host 0x18 4 (.write v)) s) = .next s ∧
    step (push (.host 0x1C 4 (.write v)) s) = .next s ∧
    ∀ off ∈ [0x08, 0x0C, 0x10, 0x14], ∃ t,
      Host.Core.run Sys2Proof.core 2 (push (.host off 4 (.write v)) (push (.host off 4 .read) s)) = .next t ∧
        t.inputs = s.inputs ∧ t.trace = s.trace ++ [.readValue off v]

/-- R24, R221: the fields of STATUS. -/
def Obligations.StatusFields : Prop :=
  ∀ s : State, s.sel < 256 →
    (statusWord s).toNat % 16 =
      (match s.result with
        | .ok => 0
        | .indexError => 1
        | .initError => 2
        | .transmitError => 3
        | .notInit => 4
        | .illegal => 5) ∧
    (statusWord s).toNat / 16 % 2 = (if s.init then 1 else 0) ∧
    (statusWord s).toNat / 32 % 2 = (if s.busy then 1 else 0) ∧
    (statusWord s).toNat / 64 % 2 = (if s.phase = .encodingReset then 1 else 0) ∧
    (statusWord s).toNat / 128 % 2 = 0 ∧
    (statusWord s).toNat / 256 % 256 = s.sel ∧
    (statusWord s).toNat / 65536 = 0

/-- R51: a host access in the window that is not 4 bytes wide or not word aligned is refused. R52 and R50: an access
outside the window is refused under its own name (entry 7), and a bus address in the window is the access at its offset. -/
def Obligations.MalformedAccessesAreRefused : Prop :=
  ∀ (s : State) (off size : Nat) (op : BusOp),
    (off < 0x20 → (size ≠ 4 ∨ off % 4 ≠ 0) → step (push (.host off size op) s) = .refused .partialAccess) ∧
    (0x20 ≤ off → step (push (.host off size op) s) = .refused .outsideWindow) ∧
    (∀ addr, (addr < s.params.lpeBase ∨ s.params.lpeBase + 0x1F < addr) →
      step (push (.bus addr size op) s) = .refused .outsideWindow) ∧
    step (push (.bus (s.params.lpeBase + off) size op) s) = step (push (.host off size op) s)

/-- R220: no condition stops the block. A step never faults, and it is refused only at an access that R51 or R52 leaves
without a step. -/
def Obligations.OnlyMalformedAccessesStop : Prop :=
  (∀ (i : Instr) (s : State), ∃ t, exec i s = .next t) ∧
  ∀ s : State, (∃ t, step s = .next t) ∨
    ∃ x rest, s.inputs = x :: rest ∧
      ((∃ off size op, x = .host off size op ∧ (0x20 ≤ off ∨ size ≠ 4 ∨ off % 4 ≠ 0)) ∨
       (∃ addr size op, x = .bus addr size op ∧
          (addr < s.params.lpeBase ∨ s.params.lpeBase + 0x1F < addr ∨ size ≠ 4 ∨
            (addr - s.params.lpeBase) % 4 ≠ 0)))

/-! ## Reset and invariants -/

/-- R36: the state after reset, whatever the parameters, read as the rule's table reads it. -/
def Obligations.ResetValues : Prop :=
  State.reset = State.resetWith Config.params ∧ ∀ p : Params,
    let s := State.resetWith p
    readReg s .cmd = 0x00000000#32 ∧ readReg s .status = 0x00000000#32 ∧
    s.result = .ok ∧ readReg s .idx = 0x00000000#32 ∧ readReg s .propR = 0x00000000#32 ∧
    readReg s .propG = 0x00000000#32 ∧ readReg s .propB = 0x00000000#32 ∧ readReg s .cursor = 0x00000000#32 ∧
    readReg s .info = BitVec.ofNat 32 p.ledCount ∧
    (∀ i, (getPix s i).prop = ⟨0#32, 0#32, 0#32⟩ ∧ (getPix s i).c8 = ⟨0#8, 0#8, 0#8⟩) ∧
    (∀ k, getTx s k = 0x00#8) ∧ s.phase = .encodingBytes ∧ s.bitpos = 0 ∧ s.busy = false ∧ s.init = false ∧
    s.sel = 0 ∧ s.tick = ⟨⟨.low, 0, .low, 0⟩, ⟨.low, 0, .low, 0⟩, ⟨.low, 0, .low, 0⟩⟩

/-- R250: a reset puts every piece of the block's state to its reset value in one step and emits nothing, so that a frame
in flight ends without a reset word; after it an ENCODE request gets IDLE. That the agents' pending steps and answers stay
is the model's own (entry 13). -/
def Obligations.ResetStepRestoresResetState : Prop :=
  ∀ s : State, ∃ t, step (push .reset s) = .next t ∧
    t = { State.resetWith s.params with env := s.env, inputs := s.inputs, trace := s.trace } ∧
    ∀ cap, exec (.encode cap) t = .next { t with trace := t.trace ++ [.response ⟨[], .idle⟩] }

/-- The invariant holds after reset, for the free parameters of the model's reset state and for any legal ones. -/
def Obligations.ResetMeetsInvariant : Prop :=
  BlockInv State.reset ∧ ∀ p : Params, p.Legal → BlockInv (State.resetWith p)

/-- R27, R29, R31, R32, R33: every step keeps the invariant: stores canonical and in range, proportions canonical, the
cursor in its range, the encoder relations, and the latched profile. -/
def Obligations.EveryStepKeepsInvariant : Prop :=
  ∀ s t : State, BlockInv s → step s = .next t → BlockInv t

/-- R75, R192: no step writes a parameter, and after a successful INIT no step but reset writes Init, Sel or Tick. -/
def Obligations.ProfileNeverChangesAfterInit : Prop :=
  ∀ s t : State, step s = .next t →
    t.params = s.params ∧
    (s.init = true → s.inputs.head? ≠ some .reset → t.init = true ∧ t.sel = s.sel ∧ t.tick = s.tick)

/-- R34: what sets and clears Init, Sel and Busy, and nothing else does. -/
def Obligations.WritersOfInitSelBusy : Prop :=
  ∀ (x : Input) (s t : State), step (push x s) = .next t →
    (s.init = false → t.init = true → (∃ n, inputInstr s.params x = some (.init n)) ∧ t.result = .ok) ∧
    ((∃ n, inputInstr s.params x = some (.init n)) → t.result = .ok → t.init = true) ∧
    (s.init = true → t.init = false → x = .reset) ∧
    (t.sel ≠ s.sel → x = .reset ∨ ((∃ n, inputInstr s.params x = some (.init n)) ∧ t.result = .ok)) ∧
    (s.busy = false → t.busy = true →
      (inputInstr s.params x = some .transmit ∨ inputInstr s.params x = some .wipe) ∧ t.result = .ok) ∧
    ((inputInstr s.params x = some .transmit ∨ inputInstr s.params x = some .wipe) → t.result = .ok → t.busy = true) ∧
    (s.busy = true → t.busy = false → x = .reset ∨ inputInstr s.params x = some .abort ∨
      ∃ n, inputInstr s.params x = some (.encode n) ∧ lastFlag t.trace = some .complete) ∧
    ((∃ n, inputInstr s.params x = some (.encode n)) → lastFlag t.trace = some .complete → t.busy = false) ∧
    (inputInstr s.params x = some .abort → t.result = .ok → t.busy = false) ∧
    (x = .reset → t.init = false ∧ t.sel = 0 ∧ t.busy = false)

/-! ## Checks and frames of the commands -/

/-- R225: the fixed order of the checks of a command word; the first failing check gives the result. -/
def Obligations.CheckPriority : Prop :=
  ∀ (v : Word) (s : State), ∃ t, step (push (.host 0x00 4 (.write v)) s) = .next t ∧
    t.result =
      (if v.toNat / 65536 ≠ 0 then .illegal
      else if v.toNat % 256 = 0 ∨ 7 ≤ v.toNat % 256 then .illegal
      else if 4 ≤ v.toNat % 256 ∧ v.toNat / 256 % 256 ≠ 0 then .illegal
      else if v.toNat % 256 ≠ 1 ∧ s.init = false then .notInit
      else if v.toNat % 256 = 1 then
        (if s.init = true then .initError
        else if numProfiles s.params ≤ v.toNat / 256 % 256 then .initError
        else if ¬ProfileOk s.params (v.toNat / 256 % 256) then .initError
        else if chanOkAnswer s.env = false then .initError
        else .ok)
      else if v.toNat % 256 = 2 ∨ v.toNat % 256 = 3 then
        (if s.params.ledCount ≤ s.idx.toNat then .indexError else .ok)
      else if v.toNat % 256 = 4 ∨ v.toNat % 256 = 5 then
        (if s.busy = true then .transmitError
        else if chanAcceptAnswer s.env = false then .transmitError
        else .ok)
      else .ok)

/-- R224: a command word whose result is not OK writes RESULT and nothing else of the block; only the environment's
answer may have been taken. -/
def Obligations.FailedCommandsChangeOnlyResult : Prop :=
  ∀ (v : Word) (s t : State), step (push (.host 0x00 4 (.write v)) s) = .next t → t.result ≠ .ok →
    t = { s with result := t.result, env := t.env }

/-- R225 step 4, R255: before a successful INIT every command but INIT gives NOT_INIT and changes nothing else. -/
def Obligations.CommandsBeforeInitGiveNotInit : Prop :=
  ∀ (i : Instr) (s : State), s.init = false →
    (i = .transmit ∨ i = .wipe ∨ i = .abort ∨ (∃ n, i = .setPixel n) ∨ (∃ n, i = .modBright n)) →
    exec i s = .next { s with result := .notInit }

/-- R84, R130, R152, R227 and the 'Flags written' lists: what each instruction leaves unchanged. INIT may write RESULT,
Init, Sel and Tick; the pixel commands RESULT and pixel IDX, MOD_BRIGHT keeping its proportions; TRANSMIT and WIPE RESULT,
the encoder, Busy, the bytes of TxBuf and (WIPE) the Color8s; ABORT RESULT, the encoder and Busy; ENCODE the encoder, Busy
and the response. A command whose result is not OK stores to no pixel and no byte. -/
def Obligations.InstructionFrames : Prop :=
  ∀ (s t : State),
    (∀ n, exec (.init n) s = .next t →
      t = { s with result := t.result, init := t.init, sel := t.sel, tick := t.tick, env := t.env } ∧
      (∀ k, getTx t k = getTx s k) ∧ ∀ j, getPix t j = getPix s j) ∧
    (∀ n, (exec (.setPixel n) s = .next t ∨ exec (.modBright n) s = .next t) →
      t = { s with result := t.result, pix := t.pix } ∧ (∀ k, getTx t k = getTx s k) ∧
      (t.result ≠ .ok → ∀ j, getPix t j = getPix s j) ∧
      (Sparse.wf Pixel.reset s.pix → ∀ j, j ≠ pixelIndex s → getPix t j = getPix s j)) ∧
    (∀ n, exec (.modBright n) s = .next t → Sparse.wf Pixel.reset s.pix → ∀ j, (getPix t j).prop = (getPix s j).prop) ∧
    (exec .transmit s = .next t →
      t = { s with result := t.result, phase := t.phase, bitpos := t.bitpos, busy := t.busy, txBuf := t.txBuf,
                   env := t.env } ∧ (∀ j, getPix t j = getPix s j) ∧
      (t.result ≠ .ok → ∀ k, getTx t k = getTx s k) ∧
      (BlockInv s → ∀ k, nBytes s.params ≤ k → getTx t k = getTx s k)) ∧
    (exec .wipe s = .next t →
      t = { s with result := t.result, phase := t.phase, bitpos := t.bitpos, busy := t.busy, txBuf := t.txBuf,
                   pix := t.pix, env := t.env } ∧
      (∀ j, j < s.params.ledCount → (getPix t j).prop = (getPix s j).prop) ∧
      (t.result ≠ .ok → (∀ j, getPix t j = getPix s j) ∧ ∀ k, getTx t k = getTx s k) ∧
      (BlockInv s → (∀ j, s.params.ledCount ≤ j → getPix t j = getPix s j) ∧
        ∀ k, nBytes s.params ≤ k → getTx t k = getTx s k)) ∧
    (exec .abort s = .next t →
      t = { s with result := t.result, phase := t.phase, bitpos := t.bitpos, busy := t.busy } ∧
      (∀ k, getTx t k = getTx s k) ∧ ∀ j, getPix t j = getPix s j) ∧
    (∀ n, exec (.encode n) s = .next t →
      t = { s with phase := t.phase, bitpos := t.bitpos, busy := t.busy, trace := t.trace } ∧
      (∀ k, getTx t k = getTx s k) ∧ ∀ j, getPix t j = getPix s j)

/-- R227: only a write to CMD or a reset writes RESULT. -/
def Obligations.ResultKeptBetweenCommands : Prop :=
  ∀ (x : Input) (s t : State), step (push x s) = .next t → t.result ≠ s.result →
    x = .reset ∨ (∃ v, x = .host 0x00 4 (.write v)) ∨ ∃ v, x = .bus s.params.lpeBase 4 (.write v)

/-! ## INIT and the timing profile -/

/-- R190 with R185 to R188: INIT, with its encoding, fails without another change in the four cases, in their order, and otherwise latches the
selector and the three words; the draw is taken only when the earlier checks pass. -/
def Obligations.InitSelectsProfile : Prop :=
  ∀ (n : Nat) (s : State),
    let pr := profile s.params n
    let tk := fun t => t * s.params.clkHz / 1000000000
    let ok := ∀ d ∈ [tk pr.t0h, tk pr.t0l, tk pr.t1h, tk pr.t1l, tk pr.trs / 2], 1 ≤ d ∧ d ≤ s.params.durFieldMax
    let e : Env := { s.env with chanOk := s.env.chanOk.tail, drawn := s.env.drawn + 1 }
    ((s.init = true ∨ s.params.profiles.length ≤ n ∨ ¬ok) →
      exec (.init n) s = .next { s with result := .initError }) ∧
    (s.init = false → n < s.params.profiles.length → ok → chanOkAnswer s.env = false →
      exec (.init n) s = .next { s with result := .initError, env := e }) ∧
    (s.init = false → n < s.params.profiles.length → ok → chanOkAnswer s.env = true →
      exec (.init n) s = .next { s with
        sel := n
        tick := ⟨⟨.high, tk pr.t0h, .low, tk pr.t0l⟩, ⟨.high, tk pr.t1h, .low, tk pr.t1l⟩,
          ⟨.low, tk pr.trs / 2, .low, tk pr.trs / 2⟩⟩
        init := true
        result := .ok
        env := e }) ∧
    (n < 256 → decodeCmd (BitVec.ofNat 32 (n * 256 + 0x01)) = .ok (.init n))

/-- R184: ticks are the floor of the exact quotient; the rule's examples. -/
def Obligations.TicksAreTruncatedExactly : Prop :=
  (∀ (p : Params) (t : Nat), (ticks p t : ℤ) = ⌊(t : ℚ) * p.clkHz / 1000000000⌋) ∧
  ∀ p : Params,
    (p.clkHz = 10000000 → ticks p 350 = 3 ∧ ticks p 800 = 8 ∧ ticks p 80000 = 800) ∧
    (p.clkHz = 1000000 → ticks p 350 = 0)

/-- R189: the truncated high and low times of a bit are together less than 2 ticks short of the exact bit period, and never
over it. -/
def Obligations.BitPeriodWithinTwoTicks : Prop :=
  ∀ (p : Params) (hi lo : Nat),
    ((ticks p hi + ticks p lo : ℕ) : ℚ) ≤ ((hi + lo : ℕ) : ℚ) * p.clkHz / 1000000000 ∧
    ((hi + lo : ℕ) : ℚ) * p.clkHz / 1000000000 < ((ticks p hi + ticks p lo : ℕ) : ℚ) + 2

/-- R164: in an initialised block the two segments of WR sum to the profile's TRS in ticks when that is even and to one
tick less when it is odd. -/
def Obligations.ResetGapWithinOneTick : Prop :=
  ∀ s : State, BlockInv s → s.init = true →
    let trs := ticks s.params (profile s.params s.sel).trs
    s.tick.wr.dur0 + s.tick.wr.dur1 = (if trs % 2 = 0 then trs else trs - 1)

/-! ## Colour -/

/-- R113: the value of a binary32 word, in exact rationals, and the rule's examples. -/
def Obligations.BinaryWordValue : Prop :=
  (∀ w : Word,
    let e : Nat := w.toNat / 2 ^ 23 % 256
    let f : Nat := w.toNat % 2 ^ 23
    let neg := w.getLsbD 31
    (e ≤ 254 → ∃ n : Nat, value w = .finite neg n ∧
      (n : ℚ) / 2 ^ 149 =
        (if e = 0 then (f : ℚ) * (2 : ℚ) ^ (-149 : ℤ) else ((2 : ℚ) ^ 23 + f) * (2 : ℚ) ^ ((e : ℤ) - 150))) ∧
    (e = 255 → value w = (if f = 0 then .infinity neg else .nan))) ∧
  value 0x3F000000#32 = .finite false (2 ^ 148) ∧ value 0x3DCCCCCD#32 = .finite false (13421773 * 2 ^ 122)

/-- R114: the clamp, by cases on the word. -/
def Obligations.ClampPropByWord : Prop :=
  ∀ w : Word,
    (w.getLsbD 31 = true → clampProp w = 0x00000000#32) ∧
    (w.getLsbD 31 = false → 0x7F800000 < w.toNat → clampProp w = 0x00000000#32) ∧
    (0x3F800000 < w.toNat → w.toNat ≤ 0x7F800000 → clampProp w = 0x3F800000#32) ∧
    (w.toNat ≤ 0x3F800000 → clampProp w = w) ∧
    (clampProp w).toNat ≤ 0x3F800000 ∧ clampProp (clampProp w) = clampProp w

/-- R114: the clamp is the clamp of the value to [0, 1] (a finite value n stands for n / 2^149), with NaN, -0.0 and every
negative value at 0.0. -/
def Obligations.ClampPropByValue : Prop :=
  ∀ w : Word,
    (value w = .nan → clampProp w = 0x00000000#32) ∧
    (value w = .infinity true → clampProp w = 0x00000000#32) ∧
    (value w = .infinity false → clampProp w = 0x3F800000#32) ∧
    (∀ n, value w = .finite true n → clampProp w = 0x00000000#32) ∧
    (∀ n, value w = .finite false n →
      value (clampProp w) = .finite false (min n (2 ^ 149)) ∧ (n ≤ 2 ^ 149 → clampProp w = w))

/-- R115, R116: the gamma index of a canonical word is the exact product rounded half up; the clamp never changes it; the
rule's corner cases. -/
def Obligations.GammaIndexRoundsExactProduct : Prop :=
  (∀ (c : Word) (b : Nat), CanonicalWord c → b ≤ 100 →
    ∃ n : Nat, value c = .finite false n ∧
      (gammaIndex c b : ℤ) = ⌊(n : ℚ) / 2 ^ 149 * b + 1 / 2⌋ ∧ gammaIndex c b ≤ 100 ∧
      (b = 0 → gammaIndex c b = 0)) ∧
  gammaIndex 0x3F800000#32 100 = 100 ∧ gammaIndex 0x3F000000#32 45 = 23 ∧ gammaIndex 0x3F333333#32 5 = 3

/-- R112, R117: with legal parameters every lookup is inside the table and gives its entry; brightness 0 is black and full
brightness of full channels is white. -/
def Obligations.ColorIsGammaOfIndex : Prop :=
  ∀ (p : Params) (prop : Proportion) (b : Nat), p.Legal → CanonicalProportion prop → b ≤ 100 →
    p.gamma[gammaIndex prop.r b]? = some (computeColor8 p prop b).r ∧
    p.gamma[gammaIndex prop.g b]? = some (computeColor8 p prop b).g ∧
    p.gamma[gammaIndex prop.b b]? = some (computeColor8 p prop b).b ∧
    (b = 0 → computeColor8 p prop b = ⟨0#8, 0#8, 0#8⟩) ∧
    (b = 100 → prop = ⟨0x3F800000#32, 0x3F800000#32, 0x3F800000#32⟩ →
      computeColor8 p prop b = ⟨255#8, 255#8, 255#8⟩)

/-- R119: each channel is monotone in the brightness and in its proportion's value (a canonical word's `magnitude`, in
units of 2^(-149)), and depends on nothing else; equal words give equal channels, of one colour or two. -/
def Obligations.ColorChannelsMonotoneAndIndependent : Prop :=
  ∀ (p : Params) (q q' : Proportion) (b b' : Nat), p.Legal → CanonicalProportion q → CanonicalProportion q' →
    b ≤ b' → b' ≤ 100 →
    (magnitude q.r ≤ magnitude q'.r → (computeColor8 p q b).r ≤ (computeColor8 p q' b').r) ∧
    (magnitude q.g ≤ magnitude q'.g → (computeColor8 p q b).g ≤ (computeColor8 p q' b').g) ∧
    (magnitude q.b ≤ magnitude q'.b → (computeColor8 p q b).b ≤ (computeColor8 p q' b').b) ∧
    (q.r = q'.r → (computeColor8 p q b).r = (computeColor8 p q' b).r) ∧
    (q.g = q'.g → (computeColor8 p q b).g = (computeColor8 p q' b).g) ∧
    (q.b = q'.b → (computeColor8 p q b).b = (computeColor8 p q' b).b) ∧
    (q.r = q'.g → (computeColor8 p q b).r = (computeColor8 p q' b).g) ∧
    (q.r = q'.b → (computeColor8 p q b).r = (computeColor8 p q' b).b) ∧
    (q.g = q'.b → (computeColor8 p q b).g = (computeColor8 p q' b).b)

/-! ## Pixel commands -/

/-- R131: SET_PIXEL stores the clamped proportions and the computed colour of pixel IDX and touches no other pixel; out of
range it gives INDEX_ERROR and changes nothing else; before INIT it gives NOT_INIT. -/
def Obligations.SetPixelWritesItsPixel : Prop :=
  ∀ (n : Nat) (s : State),
    let p : Proportion := ⟨clampProp s.propR, clampProp s.propG, clampProp s.propB⟩
    (s.init = false → exec (.setPixel n) s = .next { s with result := .notInit }) ∧
    (s.init = true → s.params.ledCount ≤ s.idx.toNat →
      exec (.setPixel n) s = .next { s with result := .indexError }) ∧
    (s.init = true → s.idx.toNat < s.params.ledCount → Sparse.wf Pixel.reset s.pix →
      ∃ t, exec (.setPixel n) s = .next t ∧ t = { s with pix := t.pix, result := .ok } ∧
        getPix t s.idx.toNat = ⟨p, computeColor8 s.params p (min n 100)⟩ ∧
        ∀ j, j ≠ s.idx.toNat → getPix t j = getPix s j) ∧
    (n < 256 → decodeCmd (BitVec.ofNat 32 (n * 256 + 0x02)) = .ok (.setPixel n))

/-- R135: MOD_BRIGHT recomputes the colour of pixel IDX from its stored proportions, which stay, and touches no other
pixel; its errors are those of SET_PIXEL. -/
def Obligations.ModBrightRecomputesColor : Prop :=
  ∀ (n : Nat) (s : State),
    (s.init = false → exec (.modBright n) s = .next { s with result := .notInit }) ∧
    (s.init = true → s.params.ledCount ≤ s.idx.toNat →
      exec (.modBright n) s = .next { s with result := .indexError }) ∧
    (s.init = true → s.idx.toNat < s.params.ledCount → Sparse.wf Pixel.reset s.pix →
      ∃ t, exec (.modBright n) s = .next t ∧ t = { s with pix := t.pix, result := .ok } ∧
        getPix t s.idx.toNat =
          ⟨(getPix s s.idx.toNat).prop, computeColor8 s.params (getPix s s.idx.toNat).prop (min n 100)⟩ ∧
        ∀ j, j ≠ s.idx.toNat → getPix t j = getPix s j) ∧
    (n < 256 → decodeCmd (BitVec.ofNat 32 (n * 256 + 0x03)) = .ok (.modBright n))

/-- R132: issuing the same pixel command twice leaves the same state as issuing it once. -/
def Obligations.PixelCommandsAreIdempotent : Prop :=
  ∀ (n : Nat) (s t : State), Sparse.wf Pixel.reset s.pix →
    (exec (.setPixel n) s = .next t → exec (.setPixel n) t = .next t) ∧
    (exec (.modBright n) s = .next t → exec (.modBright n) t = .next t)

/-- R136: after an accepted WIPE a MOD_BRIGHT brings back the hue of the proportions stored before it; a pixel whose stored
proportions are zero stays off at every brightness. -/
def Obligations.ModBrightRestoresHueAfterWipe : Prop :=
  ∀ (n : Nat) (s t u : State), BlockInv s → exec .wipe s = .next t → t.result = .ok →
    s.idx.toNat < s.params.ledCount → exec (.modBright n) t = .next u →
    u.result = .ok ∧
    getPix u s.idx.toNat =
      ⟨(getPix s s.idx.toNat).prop, computeColor8 s.params (getPix s s.idx.toNat).prop (min n 100)⟩ ∧
    ((getPix s s.idx.toNat).prop = ⟨0#32, 0#32, 0#32⟩ → (getPix u s.idx.toNat).c8 = ⟨0#8, 0#8, 0#8⟩)

/-! ## Frame control -/

/-- R140, R201: TRANSMIT while busy or not accepted gives TRANSMIT_ERROR and packs nothing; accepted, it packs every byte
of TxBuf in the profile's channel order and starts the frame; before INIT it gives NOT_INIT. -/
def Obligations.TransmitPacksAndStarts : Prop :=
  ∀ s : State,
    let o := (profile s.params s.sel).order
    let e : Env := { s.env with chanAccept := s.env.chanAccept.tail, drawn := s.env.drawn + 1 }
    (s.init = false → exec .transmit s = .next { s with result := .notInit }) ∧
    (s.init = true → s.busy = true → exec .transmit s = .next { s with result := .transmitError }) ∧
    (s.init = true → s.busy = false → chanAcceptAnswer s.env = false →
      exec .transmit s = .next { s with result := .transmitError, env := e }) ∧
    (s.init = true → s.busy = false → chanAcceptAnswer s.env = true →
      ∃ t, exec .transmit s = .next t ∧
        t = { s with txBuf := t.txBuf, phase := .encodingBytes, bitpos := 0, busy := true, result := .ok, env := e } ∧
        Memory.wf t.txBuf ∧
        (∀ i, i < s.params.ledCount → ∀ j, j < 3 →
          getTx t (3 * i + j) = channelOf (getPix s i).c8 (orderAt o j)) ∧
        ∀ k, 3 * s.params.ledCount ≤ k → getTx t k = 0x00#8) ∧
    decodeCmd 0x00000004#32 = .ok .transmit

/-- R55, R140: the bytes of a packed pixel under each of the six channel orders, G, R, B for the order GRB. -/
def Obligations.ChannelOrderBytes : Prop :=
  ∀ (s : State) (i : Nat), i < s.params.ledCount →
    let c := (getPix s i).c8
    let bytes := [getTx (pack s) (3 * i), getTx (pack s) (3 * i + 1), getTx (pack s) (3 * i + 2)]
    match (profile s.params s.sel).order with
    | .grb => bytes = [c.g, c.r, c.b]
    | .rgb => bytes = [c.r, c.g, c.b]
    | .brg => bytes = [c.b, c.r, c.g]
    | .gbr => bytes = [c.g, c.b, c.r]
    | .rbg => bytes = [c.r, c.b, c.g]
    | .bgr => bytes = [c.b, c.g, c.r]

/-- R141: the packed TxBuf is a function of the colours and the order alone, whatever TxBuf or the proportions held. -/
def Obligations.PackIsDeterminedByColors : Prop :=
  ∀ s s' t t' : State, s.params.ledCount = s'.params.ledCount →
    (profile s.params s.sel).order = (profile s'.params s'.sel).order →
    (∀ i, i < s.params.ledCount → (getPix s i).c8 = (getPix s' i).c8) →
    exec .transmit s = .next t → t.result = .ok → exec .transmit s' = .next t' → t'.result = .ok →
    t.txBuf = t'.txBuf

/-- R143, R205: WIPE while busy or not accepted gives TRANSMIT_ERROR and blanks nothing; accepted, it blanks every Color8
and every byte of TxBuf, keeps the proportions, and starts the frame; before INIT it gives NOT_INIT. -/
def Obligations.WipeBlanksAndStarts : Prop :=
  ∀ s : State,
    let e : Env := { s.env with chanAccept := s.env.chanAccept.tail, drawn := s.env.drawn + 1 }
    (s.init = false → exec .wipe s = .next { s with result := .notInit }) ∧
    (s.init = true → s.busy = true → exec .wipe s = .next { s with result := .transmitError }) ∧
    (s.init = true → s.busy = false → chanAcceptAnswer s.env = false →
      exec .wipe s = .next { s with result := .transmitError, env := e }) ∧
    (s.init = true → s.busy = false → chanAcceptAnswer s.env = true →
      ∃ t, exec .wipe s = .next t ∧
        t = { s with pix := t.pix, txBuf := t.txBuf, phase := .encodingBytes, bitpos := 0, busy := true,
                     result := .ok, env := e } ∧
        (∀ i, i < s.params.ledCount → getPix t i = ⟨(getPix s i).prop, ⟨0#8, 0#8, 0#8⟩⟩) ∧
        ∀ k, getTx t k = 0x00#8) ∧
    decodeCmd 0x00000005#32 = .ok .wipe

/-- R144, R206: the frame an accepted WIPE sends is 24 × LED_COUNT words W0 and then WR, and packing its pixels would give
the same TxBuf. -/
def Obligations.WipeSendsAllOffFrame : Prop :=
  ∀ s t : State, exec .wipe s = .next t → t.result = .ok →
    remaining t = List.replicate (24 * s.params.ledCount) s.tick.w0 ++ [s.tick.wr] ∧ (pack t).txBuf = t.txBuf

/-- R74, R202: of two frame starts in a row one is accepted; the second gives TRANSMIT_ERROR and changes nothing else. -/
def Obligations.SecondFrameStartIsRejected : Prop :=
  ∀ (i j : Instr) (s t : State), (i = .transmit ∨ i = .wipe) → (j = .transmit ∨ j = .wipe) →
    exec i s = .next t → t.result = .ok → exec j t = .next { t with result := .transmitError }

/-- R77: while a frame is in flight no step but reset writes TxBuf, and the frame stream stays what it was. -/
def Obligations.FrameSnapshotIsKept : Prop :=
  ∀ s t : State, BlockInv s → s.busy = true → s.inputs.head? ≠ some .reset → step s = .next t →
    t.txBuf = s.txBuf ∧ frameStream t = frameStream s

/-! ## The encoder -/

/-- R150: the word of payload bit k, MSB first, and the rule's example. -/
def Obligations.PayloadBitsMsbFirst : Prop :=
  ∀ s : State,
    (∀ k, k < 8 * (3 * s.params.ledCount) →
      bitWord s k =
        (if (getTx s (k / 8)).toNat / 2 ^ (7 - k % 8) % 2 = 1 then s.tick.w1 else s.tick.w0)) ∧
    (getTx s 0 = 0xA5#8 → (List.range 8).map (bitWord s) =
      [s.tick.w1, s.tick.w0, s.tick.w1, s.tick.w0, s.tick.w0, s.tick.w1, s.tick.w0, s.tick.w1])

/-- R56, R160: the frame stream is the payload words in order and then WR, 24 × LED_COUNT + 1 words, and an accepted
TRANSMIT or WIPE has all of it still to emit. -/
def Obligations.FrameStreamShape : Prop :=
  ∀ s : State,
    (frameStream s).length = 24 * s.params.ledCount + 1 ∧
    (∀ k, k < 24 * s.params.ledCount → (frameStream s)[k]? = some (bitWord s k)) ∧
    (frameStream s)[24 * s.params.ledCount]? = some s.tick.wr ∧
    ∀ i t, (i = .transmit ∨ i = .wipe) → exec i s = .next t → t.result = .ok →
      remaining t = frameStream t ∧ emitted t.trace = emitted s.trace

/-- R153: an ENCODE request with no frame in flight emits nothing, changes nothing and returns IDLE. -/
def Obligations.EncodeWhileIdleReturnsIdle : Prop :=
  ∀ (cap : Nat) (s : State), s.busy = false →
    exec (.encode cap) s = .next { s with trace := s.trace ++ [.response ⟨[], .idle⟩] }

/-- R151, R154 to R157, R159 as a closed form of the loop: with more words left than `cap`, the response is the next
`cap` of them flagged FULL, and the cursor and the phase hold the resume point; otherwise it is all that is left flagged
COMPLETE, and the encoder is idle. -/
def Obligations.EncodeEmitsNextWords : Prop :=
  ∀ (cap : Nat) (s : State), BlockInv s → s.busy = true →
    (cap < (remaining s).length →
      exec (.encode cap) s = .next { s with
        bitpos := s.bitpos + cap
        phase := if s.bitpos + cap = 24 * s.params.ledCount then .encodingReset else .encodingBytes
        trace := s.trace ++ [.response ⟨(remaining s).take cap, .full⟩] }) ∧
    ((remaining s).length ≤ cap →
      exec (.encode cap) s = .next { s with
        bitpos := 0
        phase := .encodingBytes
        busy := false
        trace := s.trace ++ [.response ⟨remaining s, .complete⟩] })

/-- R158: how many words each kind of response holds. -/
def Obligations.ResponseWordCounts : Prop :=
  ∀ (cap : Nat) (s : State), ∃ t r, exec (.encode cap) s = .next t ∧ t.trace = s.trace ++ [.response r] ∧
    (r.flag = .full → r.words.length = cap) ∧
    (r.flag = .complete →
      1 ≤ r.words.length ∧ r.words.length ≤ cap ∧ r.words.getLast? = some s.tick.wr) ∧
    (r.flag = .idle → r.words = [])

/-- R90, R91: what a step emits consists of the three latched words, whose durations one segment can carry. -/
def Obligations.EmittedWordsAreTheThreeLatched : Prop :=
  ∀ s t : State, BlockInv s → step s = .next t → ∃ ws, emitted t.trace = emitted s.trace ++ ws ∧
    ∀ w ∈ ws, (w = s.tick.w0 ∨ w = s.tick.w1 ∨ w = s.tick.wr) ∧
      1 ≤ w.dur0 ∧ w.dur0 ≤ s.params.durFieldMax ∧ 1 ≤ w.dur1 ∧ w.dur1 ≤ s.params.durFieldMax ∧
      w.dur0 < 2 ^ 32 ∧ w.dur1 < 2 ^ 32

/-- R72: while a frame is in flight, what has been emitted followed by what is left is the same before and after every step
of any agent but ABORT and reset: no word is repeated, dropped or reordered, whatever the capacities and however host
steps interleave. -/
def Obligations.FrameOutputIsConserved : Prop :=
  ∀ (x : Input) (s t : State), BlockInv s → s.busy = true → x ≠ .reset → inputInstr s.params x ≠ some .abort →
    step (push x s) = .next t → emitted t.trace ++ remaining t = emitted s.trace ++ remaining s

/-- R161: any sequence of requests emits the words left, in order, as far as their capacities reach; the responses before
the one that reaches the end are FULL, that one is COMPLETE, and those after it are IDLE. -/
def Obligations.EncodingIsResumable : Prop :=
  ∀ (caps : List Nat) (s : State), BlockInv s → s.busy = true →
    ∃ rs : List Response,
      (encodeRun caps s).trace = s.trace ++ rs.map Event.response ∧ rs.length = caps.length ∧
      rs.flatMap Response.words = (remaining s).take caps.sum ∧
      ∀ (j : Nat) (r : Response), rs[j]? = some r →
        r.flag =
          (if (caps.take (j + 1)).sum < (remaining s).length then .full
          else if (caps.take j).sum < (remaining s).length then .complete
          else .idle)

/-- R162: with a constant capacity c ≥ 1 a frame takes exactly ceil((8 × N_BYTES + 1) / c) requests, 101 for 100 pixels and
c = 24. -/
def Obligations.RequestsPerFrame : Prop :=
  ∀ (c k : Nat) (s : State), BlockInv s → s.busy = true → s.bitpos = 0 → 1 ≤ c →
    ((encodeRun (List.replicate k c) s).busy = true ↔ k < (24 * s.params.ledCount + 1 + (c - 1)) / c) ∧
    (s.params.ledCount = 100 → c = 24 → ((encodeRun (List.replicate k c) s).busy = true ↔ k < 101))

/-- R163: while a frame is in flight every request with `cap ≥ 1` emits a word, and moves the cursor on or completes the
frame; 8 × N_BYTES + 1 such requests complete it. -/
def Obligations.EncodeMakesProgress : Prop :=
  ∀ s : State, BlockInv s → s.busy = true →
    (∀ cap, 1 ≤ cap → ∃ t r, exec (.encode cap) s = .next t ∧ t.trace = s.trace ++ [.response r] ∧
      r.words ≠ [] ∧ (s.bitpos < t.bitpos ∨ (t.busy = false ∧ r.flag = .complete))) ∧
    ∀ caps : List Nat, (∀ c ∈ caps, 1 ≤ c) → 24 * s.params.ledCount + 1 ≤ caps.length →
      (encodeRun caps s).busy = false

/-- R165, R166, R167: ABORT ends the frame in flight at a symbol-word boundary and emits nothing; idle, it changes nothing
but RESULT; the next ENCODE returns IDLE; before INIT it gives NOT_INIT. -/
def Obligations.AbortEndsFrame : Prop :=
  ∀ s : State,
    (s.init = false → exec .abort s = .next { s with result := .notInit }) ∧
    (s.init = true → ∃ t, exec .abort s = .next t ∧
      t = { s with phase := .encodingBytes, bitpos := 0, busy := false, result := .ok } ∧
      emitted t.trace = emitted s.trace ∧
      (∀ cap, exec (.encode cap) t = .next { t with trace := t.trace ++ [.response ⟨[], .idle⟩] }) ∧
      (BlockInv s → s.busy = false → t = { s with result := .ok })) ∧
    decodeCmd 0x00000006#32 = .ok .abort

/-- R271: the nominal wire time of a frame in ticks, from the numbers of its 1 and 0 bits. -/
def Obligations.FrameWireTime : Prop :=
  ∀ s : State,
    frameTicks s =
      oneBits s * (s.tick.w1.dur0 + s.tick.w1.dur1) +
        (24 * s.params.ledCount - oneBits s) * (s.tick.w0.dur0 + s.tick.w0.dur1) +
        (s.tick.wr.dur0 + s.tick.wr.dur1)

/-! ## Host programs -/

/-- R97: with nothing falling between them, the five accesses of `setPixelColor` set the pixel and end with the RESULT of
their SET_PIXEL. -/
def Obligations.SetPixelColorSequence : Prop :=
  ∀ (i r g b : Word) (br : Nat) (rest : List Input) (s : State), BlockInv s → s.init = true → br < 256 →
    s.inputs = (Pseudo.setPixelColor i r g b br).inputs ++ rest →
    ∃ t, Host.Core.run Sys2Proof.core 5 s = .next t ∧ t.inputs = rest ∧
      (s.params.ledCount ≤ i.toNat → t.result = .indexError ∧ t.pix = s.pix) ∧
      (i.toNat < s.params.ledCount → t.result = .ok ∧
        getPix t i.toNat =
          ⟨⟨clampProp r, clampProp g, clampProp b⟩,
            computeColor8 s.params ⟨clampProp r, clampProp g, clampProp b⟩ (min br 100)⟩ ∧
        ∀ j, j ≠ i.toNat → getPix t j = getPix s j)

/-! ## The sink's part -/

/-- R266: a step that serves neither a request with `cap ≥ 1` nor ABORT nor reset, or that waits, leaves the frame in
flight exactly where it is. -/
def Obligations.FrameWaitsForTheSink : Prop :=
  ∀ s : State, BlockInv s → s.busy = true →
    (s.inputs = [] → step s = .next s) ∧
    ∀ (x : Input) (t : State), asksForWords x = false → ¬cutsFrame s.params x → step (push x s) = .next t →
      t.busy = true ∧ t.bitpos = s.bitpos ∧ t.phase = s.phase ∧ remaining t = remaining s ∧
        emitted t.trace = emitted s.trace

/-- R266: under the fairness assumption every frame in flight ends, and one that is not cut off by ABORT or reset ends
with COMPLETE and with all its words emitted, whatever steps of the other agents fall between. With no request with
`cap ≥ 1` from some step on, and no ABORT or reset, the frame stays in flight for ever. -/
def Obligations.FramesCompleteUnderFairSink : Prop :=
  ∀ (a : Nat → List Input) (ex : Nat → State), Execution a ex → BlockInv (ex 0) →
    (SinkFair a ex → ∀ n, (ex n).busy = true → ∃ m, n < m ∧ (ex m).busy = false ∧
      (∀ k, n ≤ k → k < m → (ex k).busy = true) ∧
      ((∀ k, n ≤ k → k < m → ∀ x, servedAt a ex k = some x → ¬cutsFrame (ex k).params x) →
        lastFlag (ex m).trace = some .complete ∧
          emitted (ex m).trace = emitted (ex n).trace ++ remaining (ex n))) ∧
    ∀ n, (ex n).busy = true →
      (∀ k, n ≤ k → ∀ x, servedAt a ex k = some x → asksForWords x = false ∧ ¬cutsFrame (ex k).params x) →
      ∀ m, n ≤ m → (ex m).busy = true ∧ remaining (ex m) = remaining (ex n)
end

