-- ==== Sys2Proof/Laws/State.lean ====
section
/-! SUPPORT. What each named update of State does to each field, one lemma a field. -/

namespace Sys2Proof.Machine

@[simp] theorem finish_params (c : ResultCode) (s : State) : (finish c s).params = s.params := rfl
@[simp] theorem finish_idx (c : ResultCode) (s : State) : (finish c s).idx = s.idx := rfl
@[simp] theorem finish_propR (c : ResultCode) (s : State) : (finish c s).propR = s.propR := rfl
@[simp] theorem finish_propG (c : ResultCode) (s : State) : (finish c s).propG = s.propG := rfl
@[simp] theorem finish_propB (c : ResultCode) (s : State) : (finish c s).propB = s.propB := rfl
@[simp] theorem finish_result (c : ResultCode) (s : State) : (finish c s).result = c := rfl
@[simp] theorem finish_pix (c : ResultCode) (s : State) : (finish c s).pix = s.pix := rfl
@[simp] theorem finish_txBuf (c : ResultCode) (s : State) : (finish c s).txBuf = s.txBuf := rfl
@[simp] theorem finish_phase (c : ResultCode) (s : State) : (finish c s).phase = s.phase := rfl
@[simp] theorem finish_bitpos (c : ResultCode) (s : State) : (finish c s).bitpos = s.bitpos := rfl
@[simp] theorem finish_busy (c : ResultCode) (s : State) : (finish c s).busy = s.busy := rfl
@[simp] theorem finish_init (c : ResultCode) (s : State) : (finish c s).init = s.init := rfl
@[simp] theorem finish_sel (c : ResultCode) (s : State) : (finish c s).sel = s.sel := rfl
@[simp] theorem finish_tick (c : ResultCode) (s : State) : (finish c s).tick = s.tick := rfl
@[simp] theorem finish_env (c : ResultCode) (s : State) : (finish c s).env = s.env := rfl
@[simp] theorem finish_inputs (c : ResultCode) (s : State) : (finish c s).inputs = s.inputs := rfl
@[simp] theorem finish_trace (c : ResultCode) (s : State) : (finish c s).trace = s.trace := rfl

@[simp] theorem setPix_params (i : Nat) (p : Pixel) (s : State) : (setPix i p s).params = s.params := rfl
@[simp] theorem setPix_idx (i : Nat) (p : Pixel) (s : State) : (setPix i p s).idx = s.idx := rfl
@[simp] theorem setPix_propR (i : Nat) (p : Pixel) (s : State) : (setPix i p s).propR = s.propR := rfl
@[simp] theorem setPix_propG (i : Nat) (p : Pixel) (s : State) : (setPix i p s).propG = s.propG := rfl
@[simp] theorem setPix_propB (i : Nat) (p : Pixel) (s : State) : (setPix i p s).propB = s.propB := rfl
@[simp] theorem setPix_result (i : Nat) (p : Pixel) (s : State) : (setPix i p s).result = s.result := rfl
@[simp] theorem setPix_pix (i : Nat) (p : Pixel) (s : State) : (setPix i p s).pix = Sparse.set Pixel.reset s.pix i p := rfl
@[simp] theorem setPix_txBuf (i : Nat) (p : Pixel) (s : State) : (setPix i p s).txBuf = s.txBuf := rfl
@[simp] theorem setPix_phase (i : Nat) (p : Pixel) (s : State) : (setPix i p s).phase = s.phase := rfl
@[simp] theorem setPix_bitpos (i : Nat) (p : Pixel) (s : State) : (setPix i p s).bitpos = s.bitpos := rfl
@[simp] theorem setPix_busy (i : Nat) (p : Pixel) (s : State) : (setPix i p s).busy = s.busy := rfl
@[simp] theorem setPix_init (i : Nat) (p : Pixel) (s : State) : (setPix i p s).init = s.init := rfl
@[simp] theorem setPix_sel (i : Nat) (p : Pixel) (s : State) : (setPix i p s).sel = s.sel := rfl
@[simp] theorem setPix_tick (i : Nat) (p : Pixel) (s : State) : (setPix i p s).tick = s.tick := rfl
@[simp] theorem setPix_env (i : Nat) (p : Pixel) (s : State) : (setPix i p s).env = s.env := rfl
@[simp] theorem setPix_inputs (i : Nat) (p : Pixel) (s : State) : (setPix i p s).inputs = s.inputs := rfl
@[simp] theorem setPix_trace (i : Nat) (p : Pixel) (s : State) : (setPix i p s).trace = s.trace := rfl

@[simp] theorem encoderStart_params (s : State) : (encoderStart s).params = s.params := rfl
@[simp] theorem encoderStart_idx (s : State) : (encoderStart s).idx = s.idx := rfl
@[simp] theorem encoderStart_propR (s : State) : (encoderStart s).propR = s.propR := rfl
@[simp] theorem encoderStart_propG (s : State) : (encoderStart s).propG = s.propG := rfl
@[simp] theorem encoderStart_propB (s : State) : (encoderStart s).propB = s.propB := rfl
@[simp] theorem encoderStart_result (s : State) : (encoderStart s).result = s.result := rfl
@[simp] theorem encoderStart_pix (s : State) : (encoderStart s).pix = s.pix := rfl
@[simp] theorem encoderStart_txBuf (s : State) : (encoderStart s).txBuf = s.txBuf := rfl
@[simp] theorem encoderStart_phase (s : State) : (encoderStart s).phase = .encodingBytes := rfl
@[simp] theorem encoderStart_bitpos (s : State) : (encoderStart s).bitpos = 0 := rfl
@[simp] theorem encoderStart_busy (s : State) : (encoderStart s).busy = s.busy := rfl
@[simp] theorem encoderStart_init (s : State) : (encoderStart s).init = s.init := rfl
@[simp] theorem encoderStart_sel (s : State) : (encoderStart s).sel = s.sel := rfl
@[simp] theorem encoderStart_tick (s : State) : (encoderStart s).tick = s.tick := rfl
@[simp] theorem encoderStart_env (s : State) : (encoderStart s).env = s.env := rfl
@[simp] theorem encoderStart_inputs (s : State) : (encoderStart s).inputs = s.inputs := rfl
@[simp] theorem encoderStart_trace (s : State) : (encoderStart s).trace = s.trace := rfl

@[simp] theorem startFrame_params (s : State) : (startFrame s).params = s.params := rfl
@[simp] theorem startFrame_idx (s : State) : (startFrame s).idx = s.idx := rfl
@[simp] theorem startFrame_propR (s : State) : (startFrame s).propR = s.propR := rfl
@[simp] theorem startFrame_propG (s : State) : (startFrame s).propG = s.propG := rfl
@[simp] theorem startFrame_propB (s : State) : (startFrame s).propB = s.propB := rfl
@[simp] theorem startFrame_result (s : State) : (startFrame s).result = s.result := rfl
@[simp] theorem startFrame_pix (s : State) : (startFrame s).pix = s.pix := rfl
@[simp] theorem startFrame_txBuf (s : State) : (startFrame s).txBuf = s.txBuf := rfl
@[simp] theorem startFrame_phase (s : State) : (startFrame s).phase = .encodingBytes := rfl
@[simp] theorem startFrame_bitpos (s : State) : (startFrame s).bitpos = 0 := rfl
@[simp] theorem startFrame_busy (s : State) : (startFrame s).busy = true := rfl
@[simp] theorem startFrame_init (s : State) : (startFrame s).init = s.init := rfl
@[simp] theorem startFrame_sel (s : State) : (startFrame s).sel = s.sel := rfl
@[simp] theorem startFrame_tick (s : State) : (startFrame s).tick = s.tick := rfl
@[simp] theorem startFrame_env (s : State) : (startFrame s).env = s.env := rfl
@[simp] theorem startFrame_inputs (s : State) : (startFrame s).inputs = s.inputs := rfl
@[simp] theorem startFrame_trace (s : State) : (startFrame s).trace = s.trace := rfl

@[simp] theorem respond_params (r : Response) (s : State) : (respond r s).params = s.params := rfl
@[simp] theorem respond_idx (r : Response) (s : State) : (respond r s).idx = s.idx := rfl
@[simp] theorem respond_propR (r : Response) (s : State) : (respond r s).propR = s.propR := rfl
@[simp] theorem respond_propG (r : Response) (s : State) : (respond r s).propG = s.propG := rfl
@[simp] theorem respond_propB (r : Response) (s : State) : (respond r s).propB = s.propB := rfl
@[simp] theorem respond_result (r : Response) (s : State) : (respond r s).result = s.result := rfl
@[simp] theorem respond_pix (r : Response) (s : State) : (respond r s).pix = s.pix := rfl
@[simp] theorem respond_txBuf (r : Response) (s : State) : (respond r s).txBuf = s.txBuf := rfl
@[simp] theorem respond_phase (r : Response) (s : State) : (respond r s).phase = s.phase := rfl
@[simp] theorem respond_bitpos (r : Response) (s : State) : (respond r s).bitpos = s.bitpos := rfl
@[simp] theorem respond_busy (r : Response) (s : State) : (respond r s).busy = s.busy := rfl
@[simp] theorem respond_init (r : Response) (s : State) : (respond r s).init = s.init := rfl
@[simp] theorem respond_sel (r : Response) (s : State) : (respond r s).sel = s.sel := rfl
@[simp] theorem respond_tick (r : Response) (s : State) : (respond r s).tick = s.tick := rfl
@[simp] theorem respond_env (r : Response) (s : State) : (respond r s).env = s.env := rfl
@[simp] theorem respond_inputs (r : Response) (s : State) : (respond r s).inputs = s.inputs := rfl
@[simp] theorem respond_trace (r : Response) (s : State) : (respond r s).trace = s.trace ++ [.response r] := rfl

@[simp] theorem readStep_params (r : Reg) (s : State) : (readStep r s).params = s.params := rfl
@[simp] theorem readStep_idx (r : Reg) (s : State) : (readStep r s).idx = s.idx := rfl
@[simp] theorem readStep_propR (r : Reg) (s : State) : (readStep r s).propR = s.propR := rfl
@[simp] theorem readStep_propG (r : Reg) (s : State) : (readStep r s).propG = s.propG := rfl
@[simp] theorem readStep_propB (r : Reg) (s : State) : (readStep r s).propB = s.propB := rfl
@[simp] theorem readStep_result (r : Reg) (s : State) : (readStep r s).result = s.result := rfl
@[simp] theorem readStep_pix (r : Reg) (s : State) : (readStep r s).pix = s.pix := rfl
@[simp] theorem readStep_txBuf (r : Reg) (s : State) : (readStep r s).txBuf = s.txBuf := rfl
@[simp] theorem readStep_phase (r : Reg) (s : State) : (readStep r s).phase = s.phase := rfl
@[simp] theorem readStep_bitpos (r : Reg) (s : State) : (readStep r s).bitpos = s.bitpos := rfl
@[simp] theorem readStep_busy (r : Reg) (s : State) : (readStep r s).busy = s.busy := rfl
@[simp] theorem readStep_init (r : Reg) (s : State) : (readStep r s).init = s.init := rfl
@[simp] theorem readStep_sel (r : Reg) (s : State) : (readStep r s).sel = s.sel := rfl
@[simp] theorem readStep_tick (r : Reg) (s : State) : (readStep r s).tick = s.tick := rfl
@[simp] theorem readStep_env (r : Reg) (s : State) : (readStep r s).env = s.env := rfl
@[simp] theorem readStep_inputs (r : Reg) (s : State) : (readStep r s).inputs = s.inputs := rfl
@[simp] theorem readStep_trace (r : Reg) (s : State) : (readStep r s).trace = s.trace ++ [.readValue (regOffset r) (readReg s r)] := rfl

@[simp] theorem takeChanOk_params (s : State) : (takeChanOk s).params = s.params := rfl
@[simp] theorem takeChanOk_idx (s : State) : (takeChanOk s).idx = s.idx := rfl
@[simp] theorem takeChanOk_propR (s : State) : (takeChanOk s).propR = s.propR := rfl
@[simp] theorem takeChanOk_propG (s : State) : (takeChanOk s).propG = s.propG := rfl
@[simp] theorem takeChanOk_propB (s : State) : (takeChanOk s).propB = s.propB := rfl
@[simp] theorem takeChanOk_result (s : State) : (takeChanOk s).result = s.result := rfl
@[simp] theorem takeChanOk_pix (s : State) : (takeChanOk s).pix = s.pix := rfl
@[simp] theorem takeChanOk_txBuf (s : State) : (takeChanOk s).txBuf = s.txBuf := rfl
@[simp] theorem takeChanOk_phase (s : State) : (takeChanOk s).phase = s.phase := rfl
@[simp] theorem takeChanOk_bitpos (s : State) : (takeChanOk s).bitpos = s.bitpos := rfl
@[simp] theorem takeChanOk_busy (s : State) : (takeChanOk s).busy = s.busy := rfl
@[simp] theorem takeChanOk_init (s : State) : (takeChanOk s).init = s.init := rfl
@[simp] theorem takeChanOk_sel (s : State) : (takeChanOk s).sel = s.sel := rfl
@[simp] theorem takeChanOk_tick (s : State) : (takeChanOk s).tick = s.tick := rfl
@[simp] theorem takeChanOk_env (s : State) : (takeChanOk s).env = { s.env with chanOk := s.env.chanOk.tail, drawn := s.env.drawn + 1 } := rfl
@[simp] theorem takeChanOk_inputs (s : State) : (takeChanOk s).inputs = s.inputs := rfl
@[simp] theorem takeChanOk_trace (s : State) : (takeChanOk s).trace = s.trace := rfl

@[simp] theorem takeChanAccept_params (s : State) : (takeChanAccept s).params = s.params := rfl
@[simp] theorem takeChanAccept_idx (s : State) : (takeChanAccept s).idx = s.idx := rfl
@[simp] theorem takeChanAccept_propR (s : State) : (takeChanAccept s).propR = s.propR := rfl
@[simp] theorem takeChanAccept_propG (s : State) : (takeChanAccept s).propG = s.propG := rfl
@[simp] theorem takeChanAccept_propB (s : State) : (takeChanAccept s).propB = s.propB := rfl
@[simp] theorem takeChanAccept_result (s : State) : (takeChanAccept s).result = s.result := rfl
@[simp] theorem takeChanAccept_pix (s : State) : (takeChanAccept s).pix = s.pix := rfl
@[simp] theorem takeChanAccept_txBuf (s : State) : (takeChanAccept s).txBuf = s.txBuf := rfl
@[simp] theorem takeChanAccept_phase (s : State) : (takeChanAccept s).phase = s.phase := rfl
@[simp] theorem takeChanAccept_bitpos (s : State) : (takeChanAccept s).bitpos = s.bitpos := rfl
@[simp] theorem takeChanAccept_busy (s : State) : (takeChanAccept s).busy = s.busy := rfl
@[simp] theorem takeChanAccept_init (s : State) : (takeChanAccept s).init = s.init := rfl
@[simp] theorem takeChanAccept_sel (s : State) : (takeChanAccept s).sel = s.sel := rfl
@[simp] theorem takeChanAccept_tick (s : State) : (takeChanAccept s).tick = s.tick := rfl
@[simp] theorem takeChanAccept_env (s : State) : (takeChanAccept s).env = { s.env with chanAccept := s.env.chanAccept.tail, drawn := s.env.drawn + 1 } := rfl
@[simp] theorem takeChanAccept_inputs (s : State) : (takeChanAccept s).inputs = s.inputs := rfl
@[simp] theorem takeChanAccept_trace (s : State) : (takeChanAccept s).trace = s.trace := rfl

@[simp] theorem latchProfile_params (sel : Nat) (s : State) : (latchProfile sel s).params = s.params := rfl
@[simp] theorem latchProfile_idx (sel : Nat) (s : State) : (latchProfile sel s).idx = s.idx := rfl
@[simp] theorem latchProfile_propR (sel : Nat) (s : State) : (latchProfile sel s).propR = s.propR := rfl
@[simp] theorem latchProfile_propG (sel : Nat) (s : State) : (latchProfile sel s).propG = s.propG := rfl
@[simp] theorem latchProfile_propB (sel : Nat) (s : State) : (latchProfile sel s).propB = s.propB := rfl
@[simp] theorem latchProfile_result (sel : Nat) (s : State) : (latchProfile sel s).result = s.result := rfl
@[simp] theorem latchProfile_pix (sel : Nat) (s : State) : (latchProfile sel s).pix = s.pix := rfl
@[simp] theorem latchProfile_txBuf (sel : Nat) (s : State) : (latchProfile sel s).txBuf = s.txBuf := rfl
@[simp] theorem latchProfile_phase (sel : Nat) (s : State) : (latchProfile sel s).phase = s.phase := rfl
@[simp] theorem latchProfile_bitpos (sel : Nat) (s : State) : (latchProfile sel s).bitpos = s.bitpos := rfl
@[simp] theorem latchProfile_busy (sel : Nat) (s : State) : (latchProfile sel s).busy = s.busy := rfl
@[simp] theorem latchProfile_init (sel : Nat) (s : State) : (latchProfile sel s).init = true := rfl
@[simp] theorem latchProfile_sel (sel : Nat) (s : State) : (latchProfile sel s).sel = sel := rfl
@[simp] theorem latchProfile_tick (sel : Nat) (s : State) : (latchProfile sel s).tick = profileTicks s.params sel := rfl
@[simp] theorem latchProfile_env (sel : Nat) (s : State) : (latchProfile sel s).env = s.env := rfl
@[simp] theorem latchProfile_inputs (sel : Nat) (s : State) : (latchProfile sel s).inputs = s.inputs := rfl
@[simp] theorem latchProfile_trace (sel : Nat) (s : State) : (latchProfile sel s).trace = s.trace := rfl

@[simp] theorem pack_params (s : State) : (pack s).params = s.params := rfl
@[simp] theorem pack_idx (s : State) : (pack s).idx = s.idx := rfl
@[simp] theorem pack_propR (s : State) : (pack s).propR = s.propR := rfl
@[simp] theorem pack_propG (s : State) : (pack s).propG = s.propG := rfl
@[simp] theorem pack_propB (s : State) : (pack s).propB = s.propB := rfl
@[simp] theorem pack_result (s : State) : (pack s).result = s.result := rfl
@[simp] theorem pack_pix (s : State) : (pack s).pix = s.pix := rfl
@[simp] theorem pack_txBuf (s : State) : (pack s).txBuf = Sparse.tabulate Memory.unlisted (nBytes s.params) (packByte s) := rfl
@[simp] theorem pack_phase (s : State) : (pack s).phase = s.phase := rfl
@[simp] theorem pack_bitpos (s : State) : (pack s).bitpos = s.bitpos := rfl
@[simp] theorem pack_busy (s : State) : (pack s).busy = s.busy := rfl
@[simp] theorem pack_init (s : State) : (pack s).init = s.init := rfl
@[simp] theorem pack_sel (s : State) : (pack s).sel = s.sel := rfl
@[simp] theorem pack_tick (s : State) : (pack s).tick = s.tick := rfl
@[simp] theorem pack_env (s : State) : (pack s).env = s.env := rfl
@[simp] theorem pack_inputs (s : State) : (pack s).inputs = s.inputs := rfl
@[simp] theorem pack_trace (s : State) : (pack s).trace = s.trace := rfl

@[simp] theorem blank_params (s : State) : (blank s).params = s.params := rfl
@[simp] theorem blank_idx (s : State) : (blank s).idx = s.idx := rfl
@[simp] theorem blank_propR (s : State) : (blank s).propR = s.propR := rfl
@[simp] theorem blank_propG (s : State) : (blank s).propG = s.propG := rfl
@[simp] theorem blank_propB (s : State) : (blank s).propB = s.propB := rfl
@[simp] theorem blank_result (s : State) : (blank s).result = s.result := rfl
@[simp] theorem blank_pix (s : State) : (blank s).pix = Sparse.tabulate Pixel.reset s.params.ledCount (blankPixel s) := rfl
@[simp] theorem blank_txBuf (s : State) : (blank s).txBuf = Sparse.tabulate Memory.unlisted (nBytes s.params) (fun _ => 0#8) := rfl
@[simp] theorem blank_phase (s : State) : (blank s).phase = s.phase := rfl
@[simp] theorem blank_bitpos (s : State) : (blank s).bitpos = s.bitpos := rfl
@[simp] theorem blank_busy (s : State) : (blank s).busy = s.busy := rfl
@[simp] theorem blank_init (s : State) : (blank s).init = s.init := rfl
@[simp] theorem blank_sel (s : State) : (blank s).sel = s.sel := rfl
@[simp] theorem blank_tick (s : State) : (blank s).tick = s.tick := rfl
@[simp] theorem blank_env (s : State) : (blank s).env = s.env := rfl
@[simp] theorem blank_inputs (s : State) : (blank s).inputs = s.inputs := rfl
@[simp] theorem blank_trace (s : State) : (blank s).trace = s.trace := rfl

@[simp] theorem resetBlock_params (s : State) : (resetBlock s).params = s.params := rfl
@[simp] theorem resetBlock_idx (s : State) : (resetBlock s).idx = 0#32 := rfl
@[simp] theorem resetBlock_propR (s : State) : (resetBlock s).propR = 0#32 := rfl
@[simp] theorem resetBlock_propG (s : State) : (resetBlock s).propG = 0#32 := rfl
@[simp] theorem resetBlock_propB (s : State) : (resetBlock s).propB = 0#32 := rfl
@[simp] theorem resetBlock_result (s : State) : (resetBlock s).result = .ok := rfl
@[simp] theorem resetBlock_pix (s : State) : (resetBlock s).pix = [] := rfl
@[simp] theorem resetBlock_txBuf (s : State) : (resetBlock s).txBuf = [] := rfl
@[simp] theorem resetBlock_phase (s : State) : (resetBlock s).phase = .encodingBytes := rfl
@[simp] theorem resetBlock_bitpos (s : State) : (resetBlock s).bitpos = 0 := rfl
@[simp] theorem resetBlock_busy (s : State) : (resetBlock s).busy = false := rfl
@[simp] theorem resetBlock_init (s : State) : (resetBlock s).init = false := rfl
@[simp] theorem resetBlock_sel (s : State) : (resetBlock s).sel = 0 := rfl
@[simp] theorem resetBlock_tick (s : State) : (resetBlock s).tick = .reset := rfl
@[simp] theorem resetBlock_env (s : State) : (resetBlock s).env = s.env := rfl
@[simp] theorem resetBlock_inputs (s : State) : (resetBlock s).inputs = s.inputs := rfl
@[simp] theorem resetBlock_trace (s : State) : (resetBlock s).trace = s.trace := rfl

end Sys2Proof.Machine
end

