-- ==== Sys2Proof/Laws/Encoder.lean ====
section
/-! SUPPORT. What the payload loop of ENCODE does, in closed form. -/

namespace Sys2Proof.Machine

/-- The loop emits the next words of the payload, as many as the fuel, the capacity left and the payload left
allow. -/
theorem payloadLoop_eq (s : State) (cap fuel k : Nat) (out : List SymbolWord) :
    payloadLoop s cap fuel k out =
      (k + min fuel (min (cap - out.length) (payloadBits s.params - k)),
        out ++ (List.range' k (min fuel (min (cap - out.length) (payloadBits s.params - k)))).map (bitWord s)) := by
  induction fuel generalizing k out with
  | zero => simp [payloadLoop]
  | succ fuel ih =>
    rw [payloadLoop]
    split
    · rename_i h
      rw [ih]
      have hn : min (fuel + 1) (min (cap - out.length) (payloadBits s.params - k)) =
          min fuel (min (cap - (out ++ [bitWord s k]).length) (payloadBits s.params - (k + 1))) + 1 := by
        simp only [List.length_append, List.length_singleton]
        omega
      rw [hn, List.range'_succ]
      simp only [List.map_cons, List.append_assoc, List.singleton_append, Prod.mk.injEq, and_true]
      omega
    · rename_i h
      have hn : min (fuel + 1) (min (cap - out.length) (payloadBits s.params - k)) = 0 := by omega
      simp [hn]

/-- The loop as ENCODE runs it, from an empty response with enough fuel. -/
theorem payloadLoop_encode (s : State) (cap k : Nat) :
    payloadLoop s cap (payloadBits s.params - k) k [] =
      (k + min cap (payloadBits s.params - k),
        (List.range' k (min cap (payloadBits s.params - k))).map (bitWord s)) := by
  rw [payloadLoop_eq]
  have hn : min (payloadBits s.params - k) (min (cap - ([] : List SymbolWord).length) (payloadBits s.params - k)) =
      min cap (payloadBits s.params - k) := by simp only [List.length_nil]; omega
  rw [hn]
  simp

/-- Everything phase EncodingReset can do. -/
theorem encodeReset_cases (cap : Nat) (out : List SymbolWord) (s : State) :
    (out.length < cap ∧ encodeReset cap out s =
      respond ⟨out ++ [s.tick.wr], .complete⟩ { encoderStart s with busy := false }) ∨
    (cap ≤ out.length ∧ encodeReset cap out s = respond ⟨out, .full⟩ s) := by
  by_cases h : out.length < cap
  · exact .inl ⟨h, by simp [encodeReset, h]⟩
  · exact .inr ⟨not_lt.1 h, by simp [encodeReset, h]⟩

end Sys2Proof.Machine
end

