-- ==== Sys2Proof/Laws/Sparse.lean ====
section
/-! SUPPORT. The laws of the sparse stores: what a read gives after a write or a fill, that the canonical form is kept,
and that equal reads of canonical stores are equal data. -/

namespace Sys2Proof.Machine

variable {α : Type} {d : α}

theorem Sparse.get_of_not_listed {m : List (Nat × α)} {a : Nat} (h : ∀ c ∈ m, c.1 ≠ a) : Sparse.get d m a = d := by
  induction m with
  | nil => rfl
  | cons c m ih =>
    have hc : a ≠ c.1 := fun e => h c (by simp) e.symm
    simp [Sparse.get, hc, ih fun c' hc' => h c' (by simp [hc'])]

theorem Sparse.get_of_mem {m : List (Nat × α)} (hm : m.Pairwise fun x y => x.1 < y.1) {c : Nat × α} (h : c ∈ m) :
    Sparse.get d m c.1 = c.2 := by
  induction m with
  | nil => simp at h
  | cons e m ih =>
    rw [List.pairwise_cons] at hm
    rcases List.mem_cons.1 h with rfl | h'
    · simp [Sparse.get]
    · have := hm.1 c h'
      simp [Sparse.get, Nat.ne_of_gt this, ih hm.2 h']

variable [DecidableEq α]

@[simp] theorem Sparse.wf_nil : Sparse.wf d ([] : List (Nat × α)) := by simp [Sparse.wf]

theorem Sparse.mem_set {m : List (Nat × α)} {a : Nat} {v : α} {c : Nat × α} (h : c ∈ Sparse.set d m a v) :
    c ∈ m ∨ c = (a, v) ∧ v ≠ d := by
  induction m with
  | nil =>
    simp only [Sparse.set] at h
    split at h <;> simp_all
  | cons e m ih =>
    simp only [Sparse.set] at h
    split at h
    · split at h <;> simp_all
      tauto
    · split at h
      · split at h <;> simp_all
        tauto
      · rcases List.mem_cons.1 h with h | h
        · simp [h]
        · rcases ih h with h | h
          · simp [h]
          · exact .inr h

/-- A write keeps the canonical form. -/
theorem Sparse.wf_set {m : List (Nat × α)} (h : Sparse.wf d m) (a : Nat) (v : α) : Sparse.wf d (Sparse.set d m a v) := by
  refine ⟨?_, fun c hc => ?_⟩
  · obtain ⟨h, -⟩ := h
    induction m with
    | nil => simp only [Sparse.set]; split <;> simp
    | cons e m ih =>
      rw [List.pairwise_cons] at h
      simp only [Sparse.set]
      split
      · rename_i hlt
        split
        · exact List.pairwise_cons.2 h
        · refine List.pairwise_cons.2 ⟨fun c hc => ?_, List.pairwise_cons.2 h⟩
          rcases List.mem_cons.1 hc with rfl | hc
          · exact hlt
          · exact hlt.trans (h.1 c hc)
      · split
        · rename_i heq
          split
          · exact h.2
          · exact List.pairwise_cons.2 ⟨fun c hc => heq ▸ h.1 c hc, h.2⟩
        · refine List.pairwise_cons.2 ⟨fun c hc => ?_, ih h.2⟩
          rcases Sparse.mem_set hc with hc | ⟨rfl, -⟩
          · exact h.1 c hc
          · simp only
            omega
  · rcases Sparse.mem_set hc with hc | ⟨rfl, hv⟩
    · exact h.2 c hc
    · exact hv

/-- A read after a write: the value written at that entry, and every other entry as before. -/
theorem Sparse.get_set {m : List (Nat × α)} (h : Sparse.wf d m) (a : Nat) (v : α) (k : Nat) :
    Sparse.get d (Sparse.set d m a v) k = if k = a then v else Sparse.get d m k := by
  obtain ⟨h, -⟩ := h
  induction m with
  | nil => simp only [Sparse.set]; split <;> simp_all [Sparse.get]
  | cons e m ih =>
    obtain ⟨j, w⟩ := e
    rw [List.pairwise_cons] at h
    simp only [Sparse.set]
    split
    · rename_i hlt
      have hnone : Sparse.get d ((j, w) :: m) a = d := by
        refine Sparse.get_of_not_listed fun c hc => ?_
        rcases List.mem_cons.1 hc with rfl | hc
        · simp only; omega
        · have := h.1 c hc
          simp only at this; omega
      split
      · rename_i hv
        split
        · rename_i hk; rw [hk, hnone, hv]
        · rfl
      · simp [Sparse.get]
    · split
      · rename_i heq
        subst heq
        have hnone : Sparse.get d m a = d :=
          Sparse.get_of_not_listed fun c hc => Nat.ne_of_gt (h.1 c hc)
        split
        · rename_i hv
          by_cases hk : k = a <;> simp [Sparse.get, hk, hnone, hv]
        · by_cases hk : k = a <;> simp [Sparse.get, hk]
      · rename_i hne
        have hja : j ≠ a := fun e => hne e.symm
        by_cases hk : k = j
        · simp [Sparse.get, hk, hja]
        · simp [Sparse.get, hk, ih h.2]

theorem Sparse.mem_tabulate {n : Nat} {f : Nat → α} {c : Nat × α} (h : c ∈ Sparse.tabulate d n f) :
    c.1 < n ∧ c.2 = f c.1 ∧ f c.1 ≠ d := by
  simp only [Sparse.tabulate, List.mem_filterMap, List.mem_range, Sparse.entry] at h
  obtain ⟨k, hk, h⟩ := h
  split at h
  · simp at h
  · rename_i hd
    cases h
    exact ⟨hk, rfl, hd⟩

/-- A fill gives the canonical form. -/
theorem Sparse.wf_tabulate (n : Nat) (f : Nat → α) : Sparse.wf d (Sparse.tabulate d n f) := by
  refine ⟨?_, fun c hc => by obtain ⟨-, h, h'⟩ := Sparse.mem_tabulate hc; rwa [h]⟩
  refine List.Pairwise.filterMap (S := fun x y : Nat × α => x.1 < y.1) (Sparse.entry d f) ?_ List.pairwise_lt_range
  intro a a' haa' b hb b' hb'
  simp only [Sparse.entry, Option.ite_none_left_eq_some, Option.some.injEq] at hb hb'
  obtain ⟨-, rfl⟩ := hb
  obtain ⟨-, rfl⟩ := hb'
  exact haa'

/-- A read after a fill. -/
theorem Sparse.get_tabulate (n : Nat) (f : Nat → α) (k : Nat) :
    Sparse.get d (Sparse.tabulate d n f) k = if k < n then f k else d := by
  have hwf := Sparse.wf_tabulate (d := d) n f
  by_cases hlist : k < n ∧ f k ≠ d
  · have hmem : (k, f k) ∈ Sparse.tabulate d n f := by
      simp only [Sparse.tabulate, List.mem_filterMap, List.mem_range]
      exact ⟨k, hlist.1, by simp [Sparse.entry, hlist.2]⟩
    simpa [hlist.1] using Sparse.get_of_mem (d := d) hwf.1 hmem
  · rw [Sparse.get_of_not_listed]
    · split
      · rename_i hk; simp only [not_and, not_not] at hlist; exact (hlist hk).symm
      · rfl
    · intro c hc hck
      obtain ⟨h1, -, h3⟩ := Sparse.mem_tabulate hc
      exact hlist ⟨hck ▸ h1, hck ▸ h3⟩

/-- A listed entry is one whose read is not what an unlisted entry holds. -/
theorem Sparse.mem_iff {m : List (Nat × α)} (h : Sparse.wf d m) (c : Nat × α) :
    c ∈ m ↔ Sparse.get d m c.1 = c.2 ∧ c.2 ≠ d := by
  refine ⟨fun hc => ⟨Sparse.get_of_mem h.1 hc, h.2 c hc⟩, fun ⟨hg, hd⟩ => ?_⟩
  by_contra hn
  refine hd (hg.symm.trans (Sparse.get_of_not_listed fun c' hc' he => hn ?_))
  have hg' := Sparse.get_of_mem (d := d) h.1 hc'
  rw [he, hg] at hg'
  exact (Prod.ext he.symm hg' : c = c') ▸ hc'

/-- Canonical stores with equal reads are equal. -/
theorem Sparse.ext_get {m m' : List (Nat × α)} (h : Sparse.wf d m) (h' : Sparse.wf d m')
    (hg : ∀ a, Sparse.get d m a = Sparse.get d m' a) : m = m' := by
  have hs : ∀ {l : List (Nat × α)}, Sparse.wf d l → l.Nodup := fun hl =>
    hl.1.imp fun {a b} hab e => absurd (e ▸ hab) (lt_irrefl _)
  refine List.Perm.eq_of_pairwise (le := fun x y : Nat × α => x.1 < y.1) ?_ h.1 h'.1 ?_
  · intro a b _ _ hab hba
    exact absurd hab (Nat.lt_asymm hba)
  · refine (List.perm_ext_iff_of_nodup (hs h) (hs h')).2 fun c => ?_
    rw [Sparse.mem_iff h, Sparse.mem_iff h', hg]

/-- An index beyond all listed ones reads as an unlisted one. -/
theorem Sparse.get_of_range {α : Type} {d : α} {m : List (Nat × α)} {n k : Nat} (h : ∀ c ∈ m, c.1 < n) (hk : n ≤ k) :
    Sparse.get d m k = d := by
  induction m with
  | nil => rfl
  | cons c m ih =>
    have hc : c.1 < n := h c List.mem_cons_self
    rw [Sparse.get, if_neg (by omega)]
    exact ih fun x hx => h x (List.mem_cons_of_mem c hx)

end Sys2Proof.Machine
end

