-- ==== Sys2Proof/Laws/Ops.lean ====
section
/-! SUPPORT. What the shared operations over the pixel store and the transmit buffer do, read entry by entry, and that
each keeps the canonical form. -/

namespace Sys2Proof.Machine

theorem getPix_def (s : State) (i : Nat) : getPix s i = Sparse.get Pixel.reset s.pix i := rfl

theorem getTx_def (s : State) (k : Nat) : getTx s k = Sparse.get Memory.unlisted s.txBuf k := rfl

/-- Reading a pixel after writing one. -/
theorem getPix_setPix {s : State} (h : Sparse.wf Pixel.reset s.pix) (i : Nat) (p : Pixel) (j : Nat) :
    getPix (setPix i p s) j = if j = i then p else getPix s j := Sparse.get_set h i p j

theorem wf_setPix {s : State} (h : Sparse.wf Pixel.reset s.pix) (i : Nat) (p : Pixel) :
    Sparse.wf Pixel.reset (setPix i p s).pix := Sparse.wf_set h i p

/-- Reading a byte after a pack. -/
theorem getTx_pack (s : State) (k : Nat) : getTx (pack s) k = if k < nBytes s.params then packByte s k else 0#8 :=
  Sparse.get_tabulate _ _ k

theorem wf_pack (s : State) : Memory.wf (pack s).txBuf := Sparse.wf_tabulate _ _

/-- Reading a pixel after a blank. -/
theorem getPix_blank (s : State) (i : Nat) :
    getPix (blank s) i = if i < s.params.ledCount then ⟨(getPix s i).prop, ⟨0#8, 0#8, 0#8⟩⟩ else Pixel.reset :=
  Sparse.get_tabulate _ _ i

theorem wf_blank_pix (s : State) : Sparse.wf Pixel.reset (blank s).pix := Sparse.wf_tabulate _ _

/-- A blanked transmit buffer lists nothing: every byte has its reset value. -/
theorem blank_txBuf_nil (s : State) : (blank s).txBuf = [] := by
  simp [blank_txBuf, Sparse.tabulate, Sparse.entry, Memory.unlisted]

theorem wf_blank_tx (s : State) : Memory.wf (blank s).txBuf := Sparse.wf_tabulate _ _

theorem wf_reset_tx : Memory.wf State.reset.txBuf := Sparse.wf_nil

theorem wf_reset_pix : Sparse.wf Pixel.reset State.reset.pix := Sparse.wf_nil

/-- An unlisted pixel holds its reset value. -/
@[simp] theorem getPix_nil {s : State} (h : s.pix = []) (i : Nat) : getPix s i = Pixel.reset := by
  simp [getPix, h, Sparse.get]

/-- An unlisted byte holds its reset value. -/
@[simp] theorem getTx_nil {s : State} (h : s.txBuf = []) (k : Nat) : getTx s k = 0#8 := by
  simp [getTx, h, Sparse.get, Memory.unlisted]

theorem requireInit_of_init {k : State → State} {s : State} (h : s.init = true) : requireInit k s = k s := by
  simp [requireInit, h]

theorem requireInit_of_not_init {k : State → State} {s : State} (h : s.init = false) :
    requireInit k s = finish .notInit s := by
  simp [requireInit, h]

/-- Everything TRANSMIT and WIPE can do after the common checks. -/
theorem frameEffect_cases (fill : State → State) (s : State) :
    (s.busy = true ∧ frameEffect fill s = finish .transmitError s) ∨
    (s.busy = false ∧ chanAcceptAnswer s.env = true ∧
      frameEffect fill s = finish .ok (startFrame (fill (takeChanAccept s)))) ∨
    (s.busy = false ∧ chanAcceptAnswer s.env = false ∧
      frameEffect fill s = finish .transmitError (takeChanAccept s)) := by
  cases hb : s.busy <;> cases ha : chanAcceptAnswer s.env <;> simp [frameEffect, hb, ha]

/-- Everything INIT can do. -/
theorem initEffect_cases (sel : Nat) (s : State) :
    initEffect sel s = finish .initError s ∨
    (s.init = false ∧ sel < numProfiles s.params ∧ ProfileOk s.params sel ∧ chanOkAnswer s.env = true ∧
      initEffect sel s = finish .ok (latchProfile sel (takeChanOk s))) ∨
    (s.init = false ∧ sel < numProfiles s.params ∧ ProfileOk s.params sel ∧ chanOkAnswer s.env = false ∧
      initEffect sel s = finish .initError (takeChanOk s)) := by
  by_cases hi : s.init = true
  · left; simp [initEffect, hi]
  by_cases hs : numProfiles s.params ≤ sel
  · left; simp [initEffect, hs]
  by_cases hp : ProfileOk s.params sel
  · right
    rw [Bool.not_eq_true] at hi
    rw [not_le] at hs
    have he : initEffect sel s = initDraw sel s := by
      rw [initEffect, hi, if_neg Bool.false_ne_true, if_neg (not_le.2 hs), if_pos hp]
    cases ha : chanOkAnswer s.env
    · exact .inr ⟨hi, hs, hp, rfl, by simp [he, initDraw, ha]⟩
    · exact .inl ⟨hi, hs, hp, rfl, by simp [he, initDraw, ha]⟩
  · left
    rw [initEffect, if_neg hp]
    simp

/-- Everything SET_PIXEL can do after the common checks. -/
theorem setPixelEffect_cases (bfield : Nat) (s : State) :
    (s.params.ledCount ≤ pixelIndex s ∧ setPixelEffect bfield s = finish .indexError s) ∨
    (pixelIndex s < s.params.ledCount ∧ setPixelEffect bfield s = finish .ok (setPix (pixelIndex s)
      ⟨propOperand s, computeColor8 s.params (propOperand s) (brightness bfield)⟩ s)) := by
  by_cases h : s.params.ledCount ≤ pixelIndex s
  · exact .inl ⟨h, by simp [setPixelEffect, h]⟩
  · exact .inr ⟨not_le.1 h, by simp [setPixelEffect, h]⟩

/-- Everything MOD_BRIGHT can do after the common checks. -/
theorem modBrightEffect_cases (bfield : Nat) (s : State) :
    (s.params.ledCount ≤ pixelIndex s ∧ modBrightEffect bfield s = finish .indexError s) ∨
    (pixelIndex s < s.params.ledCount ∧ modBrightEffect bfield s = finish .ok (setPix (pixelIndex s)
      ⟨(getPix s (pixelIndex s)).prop,
        computeColor8 s.params (getPix s (pixelIndex s)).prop (brightness bfield)⟩ s)) := by
  by_cases h : s.params.ledCount ≤ pixelIndex s
  · exact .inl ⟨h, by simp [modBrightEffect, h]⟩
  · exact .inr ⟨not_le.1 h, by simp [modBrightEffect, h, storedProp]⟩

end Sys2Proof.Machine
end

