-- ==== Sys2Proof/Laws/PerInstr.lean ====
section
/-! SUPPORT. Statements about every instruction as syntax, one lemma a constructor. -/

namespace Sys2Proof.Laws

/-- Family `EncodesToRow`: the word of a command goes to the CMD register and is matched by its own row of R99 and by no
other, whatever its immediate; a request goes to the symbol port. -/
def EncodesToRow.Statement (i : Instr) : Prop :=
  match i.command? with
  | some c => (encode i).1 = .cmd ∧ ∀ r ∈ opcodeRows, r.matches (encode i).2 = decide (r.command = c)
  | none => (encode i).1 = .symbol

theorem init_rows (x : BitVec 8) :
    ∀ r ∈ opcodeRows, r.matches (0#16 ++ (x ++ 1#8)) = decide (r.command = .init) := by revert x; decide +kernel

theorem setPixel_rows (x : BitVec 8) :
    ∀ r ∈ opcodeRows, r.matches (0#16 ++ (x ++ 2#8)) = decide (r.command = .setPixel) := by revert x; decide +kernel

theorem modBright_rows (x : BitVec 8) :
    ∀ r ∈ opcodeRows, r.matches (0#16 ++ (x ++ 3#8)) = decide (r.command = .modBright) := by revert x; decide +kernel

theorem EncodesToRow.init (sel : Nat) : EncodesToRow.Statement (.init sel) := ⟨rfl, init_rows _⟩

theorem EncodesToRow.setPixel (bfield : Nat) : EncodesToRow.Statement (.setPixel bfield) := ⟨rfl, setPixel_rows _⟩

theorem EncodesToRow.modBright (bfield : Nat) : EncodesToRow.Statement (.modBright bfield) := ⟨rfl, modBright_rows _⟩

theorem EncodesToRow.transmit : EncodesToRow.Statement .transmit := ⟨rfl, by decide⟩

theorem EncodesToRow.wipe : EncodesToRow.Statement .wipe := ⟨rfl, by decide⟩

theorem EncodesToRow.abort : EncodesToRow.Statement .abort := ⟨rfl, by decide⟩

theorem EncodesToRow.encode (cap : Nat) : EncodesToRow.Statement (.encode cap) := rfl

end Sys2Proof.Laws
end

