-- ==== Sys2Proof/Laws/Step.lean ====
section
/-! SUPPORT. What a step can do, once: every instruction gives a next state, and every served input is one of a few state
changes. -/

namespace Sys2Proof.Machine

/-- Every instruction gives a next state (R220). -/
theorem exec_eq (i : Instr) (s : State) : exec i s = .next (effect i s) := by cases i <;> rfl

/-- A command word that decodes runs its instruction. -/
theorem command_ok {v : Word} {i : Instr} (h : decodeCmd v = .ok i) (s : State) : command v s = .next (effect i s) := by
  simp [command, h, exec_eq]

/-- A command word that does not decode records ILLEGAL. -/
theorem command_error {v : Word} {e : Reject} (h : decodeCmd v = .error e) (s : State) :
    command v s = .next (finish .illegal s) := by
  simp [command, h]

/-- The state changes a host access to a register can make, but for running an instruction. -/
def PlainStep (s t : State) : Prop :=
  t = s ∨ (∃ r, t = readStep r s) ∨ (∃ v, t = { s with idx := v }) ∨ (∃ v, t = { s with propR := v }) ∨
    (∃ v, t = { s with propG := v }) ∨ (∃ v, t = { s with propB := v }) ∨ t = finish .illegal s

theorem regAt_cmd {off : Nat} (h : regAt off = some .cmd) : off = 0 := by
  unfold regAt at h
  split at h <;> simp_all

/-- Everything a host access can do. -/
theorem hostAccess_cases {off size : Nat} {op : BusOp} {s t : State} (h : hostAccess off size op s = .next t) :
    PlainStep s t ∨ ∃ i, hostInstr off size op = some i ∧ t = effect i s := by
  unfold hostAccess at h
  split at h
  · cases h
  split at h
  · cases h
  rename_i hsize
  split at h
  · rename_i r hr
    cases op with
    | read =>
      simp only [regAccess, Host.Outcome.next.injEq] at h
      exact .inl (.inr (.inl ⟨r, h.symm⟩))
    | write v =>
      cases r
      case cmd =>
        obtain rfl := regAt_cmd hr
        simp only [regAccess, writeReg] at h
        rw [not_not] at hsize
        cases hd : decodeCmd v with
        | ok i =>
          rw [command_ok hd, Host.Outcome.next.injEq] at h
          exact .inr ⟨i, by simp [hostInstr, hsize, hd], h.symm⟩
        | error e =>
          rw [command_error hd, Host.Outcome.next.injEq] at h
          simp [PlainStep, ← h]
      all_goals
        simp only [regAccess, writeReg, Host.Outcome.next.injEq] at h
        simp [PlainStep, ← h]
  · cases h

theorem hostAccess_instr {off size : Nat} {op : BusOp} {i : Instr} (h : hostInstr off size op = some i) (s : State) :
    hostAccess off size op s = .next (effect i s) := by
  unfold hostInstr at h
  split at h
  · cases h
  split at h
  · rename_i h0
    obtain ⟨rfl, rfl⟩ := h0
    split at h
    · rename_i hd
      cases h
      exact command_ok hd s
    · cases h
  · cases h

/-- An input that brings an instruction runs it. -/
theorem serve_instr {x : Input} {i : Instr} {s : State} (h : inputInstr s.params x = some i) :
    serve x s = .next (effect i s) := by
  cases x with
  | host off size op => exact hostAccess_instr h s
  | bus addr size op =>
    simp only [inputInstr] at h
    split at h
    · cases h
    · rename_i ha
      simp only [serve, busAccess, if_neg ha, hostAccess_instr h]
  | request v =>
    simp only [inputInstr, Option.some.injEq] at h
    subst h
    exact exec_eq (decodeRequest v) s
  | reset => cases h

/-- Everything a served input can do. -/
theorem serve_cases {x : Input} {s t : State} (h : serve x s = .next t) :
    (x ≠ .reset ∧ PlainStep s t) ∨ (∃ i, inputInstr s.params x = some i ∧ t = effect i s) ∨
      (x = .reset ∧ t = resetBlock s) := by
  cases x with
  | host off size op =>
    rcases hostAccess_cases h with h | h
    · exact .inl ⟨by simp, h⟩
    · exact .inr (.inl h)
  | bus addr size op =>
    simp only [serve, busAccess] at h
    split at h
    · cases h
    · rename_i ha
      rcases hostAccess_cases h with h | ⟨i, hi, ht⟩
      · exact .inl ⟨by simp, h⟩
      · exact .inr (.inl ⟨i, by simp only [inputInstr, if_neg ha, hi], ht⟩)
  | request v =>
    simp only [serve, exec_eq, Host.Outcome.next.injEq] at h
    exact .inr (.inl ⟨_, rfl, h.symm⟩)
  | reset =>
    simp only [serve, Host.Outcome.next.injEq] at h
    exact .inr (.inr ⟨rfl, h.symm⟩)

/-- A step with nothing pending changes nothing. -/
theorem step_idle {s : State} (h : s.inputs = []) : step s = .next s := by simp [step, serveNext, h]

/-- A step serves the oldest pending input. -/
theorem step_serve {s : State} {x : Input} {rest : List Input} (h : s.inputs = x :: rest) :
    step s = serve x { s with inputs := rest } := by simp [step, serveNext, h]

/-- The step of a state with a pushed input serves that input. -/
theorem step_push (x : Input) (s : State) : step (push x s) = serve x s := rfl

/-- A run of ENCODE requests, one request at a time. -/
theorem encodeRun_cons (cap : Nat) (caps : List Nat) (s : State) :
    encodeRun (cap :: caps) s = encodeRun caps (encodeEffect cap s) := rfl

@[simp] theorem arrive_params (new : List Input) (s : State) : (s.arrive new).params = s.params := rfl

@[simp] theorem arrive_idx (new : List Input) (s : State) : (s.arrive new).idx = s.idx := rfl

@[simp] theorem arrive_propR (new : List Input) (s : State) : (s.arrive new).propR = s.propR := rfl

@[simp] theorem arrive_propG (new : List Input) (s : State) : (s.arrive new).propG = s.propG := rfl

@[simp] theorem arrive_propB (new : List Input) (s : State) : (s.arrive new).propB = s.propB := rfl

@[simp] theorem arrive_result (new : List Input) (s : State) : (s.arrive new).result = s.result := rfl

@[simp] theorem arrive_pix (new : List Input) (s : State) : (s.arrive new).pix = s.pix := rfl

@[simp] theorem arrive_txBuf (new : List Input) (s : State) : (s.arrive new).txBuf = s.txBuf := rfl

@[simp] theorem arrive_phase (new : List Input) (s : State) : (s.arrive new).phase = s.phase := rfl

@[simp] theorem arrive_bitpos (new : List Input) (s : State) : (s.arrive new).bitpos = s.bitpos := rfl

@[simp] theorem arrive_busy (new : List Input) (s : State) : (s.arrive new).busy = s.busy := rfl

@[simp] theorem arrive_init (new : List Input) (s : State) : (s.arrive new).init = s.init := rfl

@[simp] theorem arrive_sel (new : List Input) (s : State) : (s.arrive new).sel = s.sel := rfl

@[simp] theorem arrive_tick (new : List Input) (s : State) : (s.arrive new).tick = s.tick := rfl

@[simp] theorem arrive_env (new : List Input) (s : State) : (s.arrive new).env = s.env := rfl

@[simp] theorem arrive_trace (new : List Input) (s : State) : (s.arrive new).trace = s.trace := rfl

@[simp] theorem arrive_inputs (new : List Input) (s : State) : (s.arrive new).inputs = s.inputs ++ new := rfl

/-- Everything a step of an execution can do: wait, or serve its input with the rest left pending. -/
theorem execution_cases {a : Nat → List Input} {ex : Nat → State} (h : Execution a ex) (n : Nat) :
    (servedAt a ex n = none ∧ ex (n + 1) = ex n) ∨
    ∃ x rest, servedAt a ex n = some x ∧ serve x { ex n with inputs := rest } = .next (ex (n + 1)) := by
  have hn := h n
  cases hi : ((ex n).arrive (a n)).inputs with
  | nil =>
    rw [step_idle hi, Host.Outcome.next.injEq] at hn
    have ha : a n = [] := (List.append_eq_nil_iff.1 hi).2
    refine .inl ⟨by rw [servedAt, hi, List.head?_nil], ?_⟩
    rw [← hn, ha, State.arrive, List.append_nil]
  | cons x rest =>
    rw [step_serve hi] at hn
    exact .inr ⟨x, rest, by rw [servedAt, hi, List.head?_cons], hn⟩

/-- Only a request on the symbol port brings ENCODE. -/
theorem inputInstr_encode {p : Params} {x : Input} {cap : Nat} (h : inputInstr p x = some (.encode cap)) :
    ∃ v : Word, x = .request v ∧ v.toNat = cap := by
  have hc : ∀ off size op, hostInstr off size op ≠ some (.encode cap) := by
    intro off size op ho
    unfold hostInstr at ho
    split at ho
    · cases ho
    split at ho
    · split at ho
      · rename_i hd
        cases ho
        unfold decodeCmd decodeOp withoutImmediate at hd
        split at hd
        · cases hd
        split at hd <;> (try split at hd) <;> cases hd
      · cases ho
    · cases ho
  cases x with
  | host off size op => exact absurd h (hc off size op)
  | bus addr size op =>
    simp only [inputInstr] at h
    split at h
    · cases h
    · exact absurd h (hc _ _ _)
  | request v => exact ⟨v, rfl, by simpa [inputInstr, decodeRequest] using h⟩
  | reset => cases h

end Sys2Proof.Machine
end

