-- ==== Sys2Proof/Tests/Slice0.lean ====
section
/-! SUPPORT. The model's own tests. Expected values are the spec's: the words of R81 and R99, and the vectors and the
fixture of `95_test_vectors.md`, whose ids the comments name. The theorems `witness_<Name>` show, for each obligation
with hypotheses, inputs that meet them. -/

namespace Sys2Proof.Tests

open Sys2Proof.Machine

-- One theorem after another: elaborated side by side they would take a thread each.
set_option Elab.async false

/-! ## The fixture of `95_test_vectors.md`, section 0 -/

/-- The fixture's profile, with the given channel order. -/
def fixProfile (o : ChannelOrder) : Profile := ⟨300, 900, 600, 600, 80000, o⟩

/-- The fixture's parameters, with the given pixel count, clock and channel order. -/
def fixWith (leds hz : Nat) (o : ChannelOrder) : Params where
  ledCount := leds
  gamma := (List.range 101).map fun i => BitVec.ofNat 8 (255 * i / 100)
  profiles := List.replicate 9 (fixProfile o)
  clkHz := hz
  durFieldMax := 32767
  lpeBase := 0x40000000

/-- The fixture. -/
def fix (leds : Nat) : Params := fixWith leds 10000000 .grb

/-- After reset, with every draw true. -/
def fresh (leds : Nat) : State := { State.resetWith (fix leds) with env := ⟨[true, true], [true, true], 0⟩ }

/-- The fixture's words at 10 MHz (TK1). -/
def w0 : SymbolWord := ⟨.high, 3, .low, 9⟩

/-- As `w0`. -/
def w1 : SymbolWord := ⟨.high, 6, .low, 6⟩

/-- As `w0`. -/
def wr : SymbolWord := ⟨.low, 400, .low, 400⟩

/-- After `INIT #7` (TK9). -/
def ready (leds : Nat) : State := { fresh leds with init := true, sel := 7, tick := ⟨w0, w1, wr⟩ }

/-- `ready` with pixel 0 red: proportions (1.0, 0, 0), colour (255, 0, 0). -/
def red : State := { ready 1 with pix := [(0, ⟨⟨oneWord, 0#32, 0#32⟩, ⟨255#8, 0#8, 0#8⟩⟩)] }

/-- A frame in flight at bit `k`, with the given TxBuf, one pixel. -/
def sending (k : Nat) (tx : Memory) : State := { ready 1 with busy := true, bitpos := k, txBuf := tx }

/-- A frame in flight with only the reset word left, one pixel. -/
def atReset : State := { sending 24 [] with phase := .encodingReset }

/-- The next state of an instruction, if it gives one. -/
def after (i : Instr) (s : State) : Option State :=
  match exec i s with
  | .next t => some t
  | _ => none

/-- The next state of one step that serves the given input, if it gives one. -/
def served (x : Input) (s : State) : Option State :=
  match step (push x s) with
  | .next t => some t
  | _ => none

/-- The result code after a command word. -/
def resultOf (v : Word) (s : State) : Option ResultCode :=
  (served (.host 0x00 4 (.write v)) s).map State.result

/-- The last response, if the last observation is one. -/
def lastResponse (s : State) : Option Response :=
  match s.trace.getLast? with
  | some (.response r) => some r
  | _ => none

/-- The response to a request, and where it leaves the encoder. -/
def request (cap : Nat) (s : State) : Option (Option Response × Bool × Phase × Nat) :=
  (after (.encode cap) s).map fun t => (lastResponse t, t.busy, t.phase, t.bitpos)

/-! ## Well-formedness: each check refuses an operand one past its range -/

theorem test_wf_init : (Instr.init 255).wf = true ∧ (Instr.init 256).wf = false := by decide

theorem test_wf_setPixel : (Instr.setPixel 255).wf = true ∧ (Instr.setPixel 256).wf = false := by decide

theorem test_wf_modBright : (Instr.modBright 255).wf = true ∧ (Instr.modBright 256).wf = false := by decide

theorem test_wf_encode :
    (Instr.encode 4294967295).wf = true ∧ (Instr.encode 4294967296).wf = false := by decide

/-! ## Decoding: words written out from the patterns of R81, R82 and R99, and the table DE1 to DE13 -/

theorem test_decode_init : decodeCmd 0b00000000000000000000011100000001#32 = .ok (.init 7) := rfl

theorem test_decode_setPixel : decodeCmd 0b00000000000000000110010000000010#32 = .ok (.setPixel 100) := rfl

theorem test_decode_modBright : decodeCmd 0b00000000000000000110010100000011#32 = .ok (.modBright 101) := rfl

theorem test_decode_transmit : decodeCmd 0b00000000000000000000000000000100#32 = .ok .transmit := rfl

theorem test_decode_wipe : decodeCmd 0b00000000000000000000000000000101#32 = .ok .wipe := rfl

theorem test_decode_abort : decodeCmd 0b00000000000000000000000000000110#32 = .ok .abort := rfl

theorem test_decode_encode : decode .symbol 0b11111111111111111111111111111111#32 = .ok (.encode 4294967295) := rfl

/-- DE1 to DE8. -/
theorem test_decode_illegal :
    decodeCmd 0x00000000#32 = .error .reservedOpcode ∧ decodeCmd 0x00000007#32 = .error .reservedOpcode ∧
    decodeCmd 0x000000FF#32 = .error .reservedOpcode ∧ decodeCmd 0x00010002#32 = .error .reservedBits ∧
    decodeCmd 0x80000006#32 = .error .reservedBits ∧ decodeCmd 0x00000104#32 = .error .immediateNotZero ∧
    decodeCmd 0x00000205#32 = .error .immediateNotZero ∧ decodeCmd 0x0000FF06#32 = .error .immediateNotZero :=
  ⟨rfl, rfl, rfl, rfl, rfl, rfl, rfl, rfl⟩

/-- The words of R96. -/
theorem test_encode_words :
    encode (.init 7) = (.cmd, 0x00000701#32) ∧ encode (.setPixel 45) = (.cmd, 0x00002D02#32) ∧
    encode (.modBright 100) = (.cmd, 0x00006403#32) ∧ encode .transmit = (.cmd, 0x00000004#32) ∧
    encode .wipe = (.cmd, 0x00000005#32) ∧ encode .abort = (.cmd, 0x00000006#32) ∧
    encode (.encode 20) = (.symbol, 20#32) := by decide

/-- Each row of the opcode table (entry 5). -/
theorem test_table_words :
    decodeTableWord 32 0x00000701 = some (.init 7) ∧ decodeTableWord 32 0x00002D02 = some (.setPixel 45) ∧
    decodeTableWord 32 0x00006403 = some (.modBright 100) ∧ decodeTableWord 32 4 = some .transmit ∧
    decodeTableWord 32 5 = some .wipe ∧ decodeTableWord 32 6 = some .abort ∧
    decodeTableWord 32 0 = some (.encode 0) ∧ decodeTableWord 33 0x100000004 = none := by decide

/-- The first step after reset runs the word it is given. -/
theorem test_first_step :
    step (State.reset.withFetchWord 32 0x00002D02) = exec (.setPixel 45) State.reset ∧
    step (State.reset.withFetchWord 32 0) = exec (.encode 0) State.reset := ⟨rfl, rfl⟩

/-! ## The host port (RG1 to RG6) -/

/-- RG1, RG3, RG4, RG6: what reads return. -/
theorem test_reads :
    (served (.host 0x00 4 .read) red).map State.trace = some [.readValue 0x00 0#32] ∧
    (served (.host 0x04 4 .read) (ready 1)).map State.trace = some [.readValue 0x04 0x00000710#32] ∧
    (served (.host 0x1C 4 .read) (fresh 100)).map State.trace = some [.readValue 0x1C 0x00000064#32] ∧
    (served (.host 0x0C 4 (.write 0x7FC00000#32)) red).map State.propR = some 0x7FC00000#32 ∧
    (served (.bus 0x40000018 4 .read) (sending 13 [])).map State.trace = some [.readValue 0x18 13#32] := by
  decide +kernel

/-- RG2, RG5, RG6: ignored writes and refused accesses. -/
theorem test_ignored_and_refused :
    served (.host 0x04 4 (.write 0xFFFFFFFF#32)) red = some red ∧
    served (.host 0x18 4 (.write 5#32)) (sending 13 []) = some (sending 13 []) ∧
    step (push (.host 0x02 4 .read) red) = .refused .partialAccess ∧
    step (push (.host 0x08 1 .read) red) = .refused .partialAccess ∧
    step (push (.bus 0x40000020 4 .read) red) = .refused .outsideWindow :=
  ⟨by decide +kernel, by decide +kernel, rfl, rfl, rfl⟩

/-- PR1 to PR6: the order of the checks. -/
theorem test_check_priority :
    resultOf 0x00000104#32 (fresh 1) = some .illegal ∧ resultOf 0x00010001#32 (fresh 1) = some .illegal ∧
    resultOf 0x00006402#32 { fresh 1 with idx := 0xFFFFFFFF#32 } = some .notInit ∧
    resultOf 0x00000006#32 (fresh 1) = some .notInit ∧ resultOf 0x00000C01#32 (ready 1) = some .initError ∧
    (served (.host 0x00 4 (.write 0x00000004#32)) (sending 0 [])).map
      (fun t => (t.result, t.env.drawn)) = some (.transmitError, 0) := by decide +kernel

/-! ## Values (CP, GI, TK) -/

/-- CP1 to CP12. -/
theorem test_clampProp :
    [0x00000000#32, 0x80000000#32, 0x00000001#32, 0x3F000000#32, 0x3F800000#32, 0x3F800001#32, 0x42C80000#32,
      0x7F800000#32, 0x7F800001#32, 0x7FC00000#32, 0xBF800000#32, 0xFFC00000#32].map clampProp =
    [0x00000000#32, 0x00000000#32, 0x00000001#32, 0x3F000000#32, 0x3F800000#32, 0x3F800000#32, 0x3F800000#32,
      0x3F800000#32, 0x00000000#32, 0x00000000#32, 0x00000000#32, 0x00000000#32] := by decide +kernel

/-- GI2 to GI12. -/
theorem test_gammaIndex :
    gammaIndex 0x3F800000#32 100 = 100 ∧ gammaIndex 0x3F000000#32 45 = 23 ∧ gammaIndex 0x3F000000#32 1 = 1 ∧
    gammaIndex 0x3EFFFFFF#32 1 = 0 ∧ gammaIndex 0x3F333333#32 5 = 3 ∧ gammaIndex 0x3F7FFFFF#32 100 = 100 ∧
    gammaIndex 0x3DCCCCCD#32 45 = 5 ∧ gammaIndex 0x3DCCCCCC#32 45 = 4 ∧ gammaIndex 0x3E800000#32 10 = 3 ∧
    gammaIndex 0x3E800000#32 100 = 25 ∧ gammaIndex 0x00000001#32 100 = 0 := by decide +kernel

/-- R96: 0.5 and 1.0 are exact, 0.1 is not. -/
theorem test_float_literal :
    floatLiteral 1 2 0x3F000000#32 = true ∧ floatLiteral 1 1 0x3F800000#32 = true ∧
    floatLiteral 1 10 0x3DCCCCCD#32 = false := by decide +kernel

/-! ## Commands -/

/-- TK1, TK2, TK6: the latched words. -/
theorem test_init_ok :
    (after (.init 7) (fresh 1)).map (fun t => (t.result, t.init, t.sel, t.tick)) =
      some (.ok, true, 7, ⟨w0, w1, wr⟩) ∧
    (after (.init 8) { fresh 1 with params := fixWith 1 80000000 .grb }).map State.tick =
      some ⟨⟨.high, 24, .low, 72⟩, ⟨.high, 48, .low, 48⟩, ⟨.low, 3200, .low, 3200⟩⟩ := by decide +kernel

/-- TK3, TK4, TK7, TK8: each way INIT fails; only the last takes the draw. -/
theorem test_init_error :
    (after (.init 7) { fresh 1 with params := fixWith 1 1000000 .grb }).map State.result = some .initError ∧
    (after (.init 7) { fresh 1 with params := fixWith 1 1000000000 .grb }).map State.result = some .initError ∧
    (after (.init 9) (fresh 1)).map (fun t => (t.result, t.env.drawn)) = some (.initError, 0) ∧
    (after (.init 7) { fresh 1 with env := ⟨[false], [], 0⟩ }).map
      (fun t => (t.result, t.init, t.env.drawn)) = some (.initError, false, 1) := by decide +kernel

/-- PX1 and PX3. -/
theorem test_setPixel_ok :
    (after (.setPixel 45) { ready 2 with propR := 0x3F800000#32, propG := 0x3F000000#32 }).map
      (fun t => (t.result, getPix t 0, getPix t 1)) =
        some (.ok, ⟨⟨0x3F800000#32, 0x3F000000#32, 0#32⟩, ⟨114#8, 58#8, 0#8⟩⟩, Pixel.reset) ∧
    (after (.setPixel 100)
        { ready 2 with idx := 1#32, propR := 0x7FC00000#32, propG := 0xBF800000#32, propB := 0x7F800000#32 }).map
      (fun t => getPix t 1) = some ⟨⟨0#32, 0#32, 0x3F800000#32⟩, ⟨0#8, 0#8, 255#8⟩⟩ := by decide +kernel

/-- PX4 and PX7: the smallest index out of range, and brightness 0. -/
theorem test_setPixel_edges :
    after (.setPixel 100) { ready 2 with idx := 2#32 } = some { ready 2 with idx := 2#32, result := .indexError } ∧
    (after (.setPixel 0) { ready 2 with propR := 0x3F800000#32, propG := 0x3F800000#32, propB := 0x3F800000#32 }).map
      (fun t => getPix t 0) =
        some ⟨⟨0x3F800000#32, 0x3F800000#32, 0x3F800000#32⟩, ⟨0#8, 0#8, 0#8⟩⟩ := by decide +kernel

/-- PX2: the colour changes and the stored proportions stay. -/
theorem test_modBright_ok :
    (after (.modBright 100)
        { ready 2 with pix := [(0, ⟨⟨0x3F800000#32, 0x3F000000#32, 0#32⟩, ⟨114#8, 58#8, 0#8⟩⟩)] }).map
      (fun t => getPix t 0) =
        some ⟨⟨0x3F800000#32, 0x3F000000#32, 0#32⟩, ⟨255#8, 127#8, 0#8⟩⟩ := by decide +kernel

/-- PX5 and PX6: an index out of range, and a pixel never set. -/
theorem test_modBright_edges :
    (after (.modBright 100) { ready 2 with idx := 0xFFFFFFFF#32 }).map State.result = some .indexError ∧
    after (.modBright 100) { ready 2 with idx := 1#32 } = some { ready 2 with idx := 1#32 } := by decide +kernel

/-- TX1, PK1 to PK3: three orders. -/
theorem test_transmit_ok :
    [ChannelOrder.grb, .rgb, .brg].map (fun o =>
      (after .transmit { ready 1 with
        params := fixWith 1 10000000 o, pix := [(0, ⟨⟨0#32, 0#32, 0#32⟩, ⟨0x10#8, 0x20#8, 0x30#8⟩⟩)] }).map
      (fun t => (t.busy, [getTx t 0, getTx t 1, getTx t 2]))) =
    [some (true, [0x20#8, 0x10#8, 0x30#8]), some (true, [0x10#8, 0x20#8, 0x30#8]),
      some (true, [0x30#8, 0x10#8, 0x20#8])] := by decide +kernel

/-- TX2 and TX3: nothing is packed. -/
theorem test_transmit_error :
    after .transmit { sending 5 [(1, 7#8)] with pix := red.pix } =
      some { sending 5 [(1, 7#8)] with pix := red.pix, result := .transmitError } ∧
    (after .transmit { red with env := ⟨[], [false], 0⟩ }).map (fun t => (t.result, t.busy, t.txBuf)) =
      some (.transmitError, false, []) := by decide +kernel

/-- WP1 and BL1. -/
theorem test_wipe_ok :
    (after .wipe { red with txBuf := [(1, 255#8)] }).map (fun t => (t.result, t.busy, getPix t 0, t.txBuf)) =
      some (.ok, true, ⟨⟨oneWord, 0#32, 0#32⟩, ⟨0#8, 0#8, 0#8⟩⟩, []) := by decide +kernel

/-- WP2 and WP3: nothing is blanked. -/
theorem test_wipe_error :
    (after .wipe { red with busy := true }).map (fun t => (t.result, t.pix)) = some (.transmitError, red.pix) ∧
    (after .wipe { red with env := ⟨[], [false], 0⟩ }).map (fun t => (t.result, t.pix)) =
      some (.transmitError, red.pix) := by decide +kernel

/-- AB1 and AB2. -/
theorem test_abort :
    after .abort (sending 13 [(0, 255#8)]) = some { ready 1 with txBuf := [(0, 255#8)] } ∧
    after .abort atReset = some (ready 1) := by decide +kernel

/-- EN1, its second and third requests: TxBuf is [0xFF, 0x00, 0x80]. -/
theorem test_encode_resumes :
    request 10 (sending 10 [(0, 0xFF#8), (2, 0x80#8)]) =
      some (some ⟨[w0, w0, w0, w0, w0, w0, w1, w0, w0, w0], .full⟩, true, .encodingBytes, 20) ∧
    request 10 (sending 20 [(0, 0xFF#8), (2, 0x80#8)]) =
      some (some ⟨[w0, w0, w0, w0, wr], .complete⟩, false, .encodingBytes, 0) := by decide +kernel

/-- EN3, EN4, EN5 and EN10: no capacity, a payload that just fits, the reset word alone, and idle. -/
theorem test_encode_edges :
    request 0 (sending 0 []) = some (some ⟨[], .full⟩, true, .encodingBytes, 0) ∧
    request 24 (sending 0 []) = some (some ⟨List.replicate 24 w0, .full⟩, true, .encodingReset, 24) ∧
    request 1 atReset = some (some ⟨[wr], .complete⟩, false, .encodingBytes, 0) ∧
    request 5 (ready 1) = some (some ⟨[], .idle⟩, false, .encodingBytes, 0) :=
  ⟨by decide +kernel, by decide +kernel, by decide +kernel, by decide +kernel⟩

/-! ## Witnesses of the obligations' hypotheses -/

theorem legal_fix : (fix 1).Legal ∧ (fix 2).Legal ∧ (fix 100).Legal := by decide +kernel

/-- The invariant at a block with a frame in flight, inside the payload. -/
theorem inv_sending : BlockInv (sending 13 [(0, 0xFF#8)]) := by constructor <;> decide +kernel

/-- The invariant at the start of a frame, and with only the reset word left. -/
theorem inv_ends : BlockInv (sending 0 []) ∧ BlockInv atReset :=
  ⟨by constructor <;> decide +kernel, by constructor <;> decide +kernel⟩

/-- The invariant at an initialised idle block with a pixel set. -/
theorem inv_red : BlockInv red := by constructor <;> decide +kernel

theorem inv_fresh : BlockInv (fresh 1) := by constructor <;> decide +kernel

theorem witness_DecodeOfEncodeIsIdentity :
    (Instr.init 255).wf ∧ (Instr.setPixel 0).wf ∧ (Instr.modBright 255).wf ∧ Instr.transmit.wf ∧ Instr.wipe.wf ∧
      Instr.abort.wf ∧ (Instr.encode 0).wf := by decide

theorem witness_EncodeOfDecodeIsIdentity :
    decode .cmd 0x0000FF01#32 = .ok (.init 255) ∧ decode .symbol 0x00000000#32 = .ok (.encode 0) := ⟨rfl, rfl⟩

/-- One word for each alternative, at its edge. -/
theorem witness_IllegalWordsOnlyRecordIllegal :
    (0x00010000#32).toNat / 65536 ≠ 0 ∧ (0x00000100#32).toNat % 256 = 0 ∧ 7 ≤ (0x00000007#32).toNat % 256 ∧
    (4 ≤ (0x00000104#32).toNat % 256 ∧ (0x00000104#32).toNat / 256 % 256 ≠ 0) ∧
    ((0x0000FF03#32).toNat / 65536 = 0 ∧ 1 ≤ (0x0000FF03#32).toNat % 256 ∧ (0x0000FF03#32).toNat % 256 ≤ 3) := by
  decide

theorem witness_AssemblerStatementEncodings : (255 : Nat) < 256 := by decide

theorem witness_StepRunsDecodedInstruction : decodeCmd 0x00006402#32 = .ok (.setPixel 100) := rfl

theorem witness_StatusFields : (ready 1).sel < 256 ∧ (fresh 1).sel < 256 := by decide

/-- The edges of the window, in bytes and as bus addresses. -/
theorem witness_MalformedAccessesAreRefused :
    ((0x1F : Nat) < 0x20 ∧ (0x1F : Nat) % 4 ≠ 0) ∧ ((0x1C : Nat) < 0x20 ∧ (2 : Nat) ≠ 4) ∧ (0x20 : Nat) ≤ 0x20 ∧
    0x3FFFFFFF < (fix 1).lpeBase ∧ (fix 1).lpeBase + 0x1F < 0x40000020 := by decide

theorem witness_ResetMeetsInvariant : (fix 1).Legal := legal_fix.1

theorem witness_EveryStepKeepsInvariant :
    BlockInv (sending 13 [(0, 0xFF#8)]) ∧
      step (push (.request 3#32) (sending 13 [(0, 0xFF#8)])) = .next (effect (.encode 3) (sending 13 [(0, 0xFF#8)])) :=
  ⟨inv_sending, rfl⟩

theorem witness_ProfileNeverChangesAfterInit :
    (push (.host 0x00 4 (.write 0x00000701#32)) (ready 1)).init = true ∧
    (push (.host 0x00 4 (.write 0x00000701#32)) (ready 1)).inputs.head? ≠ some .reset ∧
    step (push (.host 0x00 4 (.write 0x00000701#32)) (ready 1)) = .next { ready 1 with result := .initError } :=
  ⟨rfl, by decide, rfl⟩

/-- A step for each writer: INIT, TRANSMIT, ABORT, a completing ENCODE, and reset. -/
theorem witness_WritersOfInitSelBusy :
    (served (.host 0x00 4 (.write 0x00000701#32)) (fresh 1)).map (fun t => (t.init, t.sel, t.result)) =
      some (true, 7, .ok) ∧
    (served (.host 0x00 4 (.write 0x00000004#32)) (ready 1)).map (fun t => (t.busy, t.result)) = some (true, .ok) ∧
    (served (.host 0x00 4 (.write 0x00000006#32)) (sending 0 [])).map (fun t => (t.busy, t.result)) =
      some (false, .ok) ∧
    (served (.request 1#32) atReset).map (fun t => (t.busy, lastFlag t.trace)) = some (false, some .complete) ∧
    (served .reset (sending 0 [])).map (fun t => (t.busy, t.init, t.sel)) = some (false, false, 0) := by
  decide +kernel

theorem witness_FailedCommandsChangeOnlyResult :
    (served (.host 0x00 4 (.write 0x00000901#32)) (fresh 1)).map State.result = some .initError := by decide +kernel

theorem witness_CommandsBeforeInitGiveNotInit : (fresh 1).init = false := rfl

theorem witness_InstructionFrames :
    Sparse.wf Pixel.reset red.pix ∧ pixelIndex red = 0 ∧ BlockInv red ∧ 0 < red.params.ledCount ∧
    (effect .wipe (sending 0 [])).result ≠ .ok ∧ (effect .transmit (sending 0 [])).result ≠ .ok ∧
    (effect (.setPixel 45) (fresh 1)).result ≠ .ok ∧
    exec (.init 7) (fresh 1) = .next (effect (.init 7) (fresh 1)) ∧
    exec (.setPixel 45) red = .next (effect (.setPixel 45) red) ∧
    exec (.modBright 45) red = .next (effect (.modBright 45) red) ∧
    exec .transmit red = .next (effect .transmit red) ∧ exec .wipe red = .next (effect .wipe red) ∧
    exec .abort (sending 0 []) = .next (effect .abort (sending 0 [])) ∧
    exec (.encode 3) (sending 0 []) = .next (effect (.encode 3) (sending 0 [])) :=
  ⟨by decide +kernel, rfl, inv_red, by decide, by decide, by decide, by decide, rfl, rfl, rfl, rfl, rfl, rfl, rfl⟩

theorem witness_ResultKeptBetweenCommands :
    (served (.bus 0x40000000 4 (.write 0x00000000#32)) (fresh 1)).map State.result = some .illegal ∧
    (served .reset { fresh 1 with result := .illegal }).map State.result = some .ok := by decide +kernel

/-- One input for each clause: the last selector and the first one past it, both answers. -/
theorem witness_InitSelectsProfile :
    (ready 1).init = true ∧ (fix 1).profiles.length ≤ 9 ∧ (fresh 1).init = false ∧ 8 < (fix 1).profiles.length ∧
    (∀ d ∈ [300 * (fix 1).clkHz / 1000000000, 900 * (fix 1).clkHz / 1000000000, 600 * (fix 1).clkHz / 1000000000,
        80000 * (fix 1).clkHz / 1000000000 / 2], 1 ≤ d ∧ d ≤ (fix 1).durFieldMax) ∧
    profile (fix 1) 8 = fixProfile .grb ∧ chanOkAnswer (fresh 1).env = true ∧ chanOkAnswer ⟨[false], [], 0⟩ = false ∧
    ¬ProfileOk (fixWith 1 1000000 .grb) 7 := by decide +kernel

theorem witness_TicksAreTruncatedExactly :
    (fix 1).clkHz = 10000000 ∧ (fixWith 1 1000000 .grb).clkHz = 1000000 := ⟨rfl, rfl⟩

theorem witness_ResetGapWithinOneTick : BlockInv red ∧ red.init = true := ⟨inv_red, rfl⟩

/-- Words on both sides of every limit. -/
theorem witness_ClampPropByWord :
    (0x80000000#32).getLsbD 31 = true ∧ ((0x7F800001#32).getLsbD 31 = false ∧ 0x7F800000 < (0x7F800001#32).toNat) ∧
    (0x3F800000 < (0x3F800001#32).toNat ∧ (0x7F800000#32).toNat ≤ 0x7F800000) ∧
    (0x3F800000#32).toNat ≤ 0x3F800000 := by decide

theorem witness_ClampPropByValue :
    value 0x7F800001#32 = .nan ∧ value 0xFF800000#32 = .infinity true ∧ value 0x7F800000#32 = .infinity false ∧
    value 0x80000000#32 = .finite true 0 ∧ value 0x3F800000#32 = .finite false (2 ^ 149) := by decide +kernel

theorem witness_GammaIndexRoundsExactProduct : CanonicalWord 0x3F800000#32 ∧ (100 : Nat) ≤ 100 := by decide

theorem witness_ColorIsGammaOfIndex :
    (fix 1).Legal ∧ CanonicalProportion ⟨0x3F800000#32, 0x3F800000#32, 0x3F800000#32⟩ := ⟨legal_fix.1, by decide⟩

theorem witness_ColorChannelsMonotoneAndIndependent :
    (fix 1).Legal ∧ CanonicalProportion ⟨0x3F000000#32, 0#32, 0x3F800000#32⟩ ∧
    CanonicalProportion ⟨0x3F800000#32, 0#32, 0x3F800000#32⟩ ∧ (45 : Nat) ≤ 100 ∧
    magnitude 0x3F000000#32 ≤ magnitude 0x3F800000#32 := ⟨legal_fix.1, by decide +kernel⟩

/-- R119 (c): two colours with equal words in different channels, for each pair of channels. -/
theorem witness_ColorChannels_equalWords :
    CanonicalProportion ⟨0x3F000000#32, 0x3F000000#32, 0#32⟩ ∧
    CanonicalProportion ⟨0#32, 0x3F000000#32, 0x3F000000#32⟩ := by decide

/-- The last index and the first one past it. -/
theorem witness_SetPixelWritesItsPixel :
    (fresh 2).init = false ∧ (ready 2).init = true ∧ (ready 2).params.ledCount ≤ (2#32).toNat ∧
    (1#32).toNat < (ready 2).params.ledCount ∧ Sparse.wf Pixel.reset (ready 2).pix := by decide +kernel

theorem witness_ModBrightRecomputesColor :
    red.init = true ∧ red.params.ledCount ≤ (1#32).toNat ∧ red.idx.toNat < red.params.ledCount ∧
    Sparse.wf Pixel.reset red.pix := by decide +kernel

theorem witness_PixelCommandsAreIdempotent :
    Sparse.wf Pixel.reset red.pix ∧ exec (.setPixel 45) red = .next (effect (.setPixel 45) red) ∧
    exec (.modBright 45) red = .next (effect (.modBright 45) red) := ⟨by decide +kernel, rfl, rfl⟩

theorem witness_ModBrightRestoresHueAfterWipe :
    BlockInv red ∧ exec .wipe red = .next (effect .wipe red) ∧ (effect .wipe red).result = .ok ∧
    red.idx.toNat < red.params.ledCount ∧
    exec (.modBright 100) (effect .wipe red) = .next (effect (.modBright 100) (effect .wipe red)) :=
  ⟨inv_red, rfl, by decide +kernel, by decide, rfl⟩

/-- The pixel of the last clause: one never set. -/
theorem witness_ModBrightRestoresHueAfterWipe_unset :
    BlockInv (ready 1) ∧ (effect .wipe (ready 1)).result = .ok ∧
      (getPix (ready 1) 0).prop = ⟨0#32, 0#32, 0#32⟩ :=
  ⟨by constructor <;> decide +kernel, by decide +kernel, by decide⟩

theorem witness_TransmitPacksAndStarts :
    (fresh 1).init = false ∧ (sending 0 []).init = true ∧ (sending 0 []).busy = true ∧ red.init = true ∧
    red.busy = false ∧ chanAcceptAnswer red.env = true ∧ chanAcceptAnswer ⟨[], [false], 0⟩ = false ∧
    0 < red.params.ledCount := by decide +kernel

theorem witness_ChannelOrderBytes :
    0 < red.params.ledCount ∧ [ChannelOrder.grb, .rgb, .brg, .gbr, .rbg, .bgr].all
      (fun o => (profile (fixWith 1 1 o) 7).order = o) = true := by decide +kernel

theorem witness_PackIsDeterminedByColors :
    exec .transmit red = .next (effect .transmit red) ∧ (effect .transmit red).result = .ok ∧
    exec .transmit { red with txBuf := [(2, 9#8)] } = .next (effect .transmit { red with txBuf := [(2, 9#8)] }) ∧
    (effect .transmit { red with txBuf := [(2, 9#8)] }).result = .ok := ⟨rfl, by decide +kernel, rfl, by decide +kernel⟩

theorem witness_WipeBlanksAndStarts :
    (fresh 1).init = false ∧ (sending 0 []).busy = true ∧ red.init = true ∧ red.busy = false ∧
    chanAcceptAnswer red.env = true ∧ chanAcceptAnswer ⟨[], [false], 0⟩ = false ∧ 0 < red.params.ledCount := by
  decide +kernel

theorem witness_WipeSendsAllOffFrame :
    exec .wipe red = .next (effect .wipe red) ∧ (effect .wipe red).result = .ok := ⟨rfl, by decide +kernel⟩

theorem witness_SecondFrameStartIsRejected :
    exec .transmit red = .next (effect .transmit red) ∧ (effect .transmit red).result = .ok := ⟨rfl, by decide +kernel⟩

theorem witness_FrameSnapshotIsKept :
    BlockInv (push (.host 0x00 4 (.write 0x00000005#32)) (sending 0 [])) ∧ (sending 0 []).busy = true ∧
    (push (.host 0x00 4 (.write 0x00000005#32)) (sending 0 [])).inputs.head? ≠ some .reset ∧
    step (push (.host 0x00 4 (.write 0x00000005#32)) (sending 0 [])) =
      .next { sending 0 [] with result := .transmitError } :=
  ⟨by constructor <;> decide +kernel, rfl, by decide, rfl⟩

theorem witness_PayloadBitsMsbFirst :
    23 < 8 * (3 * (ready 1).params.ledCount) ∧ getTx (sending 0 [(0, 0xA5#8)]) 0 = 0xA5#8 := by decide

theorem witness_FrameStreamShape :
    23 < 24 * (ready 1).params.ledCount ∧ exec .wipe red = .next (effect .wipe red) ∧
      (effect .wipe red).result = .ok := ⟨by decide, rfl, by decide +kernel⟩

theorem witness_EncodeWhileIdleReturnsIdle : (ready 1).busy = false := rfl

/-- The last capacity that leaves a word, and the first that leaves none. -/
theorem witness_EncodeEmitsNextWords :
    BlockInv (sending 13 [(0, 0xFF#8)]) ∧ (sending 13 [(0, 0xFF#8)]).busy = true ∧
    11 < (remaining (sending 13 [(0, 0xFF#8)])).length ∧ (remaining (sending 13 [(0, 0xFF#8)])).length ≤ 12 :=
  ⟨inv_sending, rfl, by decide +kernel, by decide +kernel⟩

theorem witness_EmittedWordsAreTheThreeLatched :
    BlockInv atReset ∧ step (push (.request 1#32) atReset) = .next (effect (.encode 1) atReset) := ⟨inv_ends.2, rfl⟩

theorem witness_FrameOutputIsConserved :
    BlockInv (sending 0 []) ∧ (sending 0 []).busy = true ∧ Input.request 7#32 ≠ .reset ∧
    inputInstr (fix 1) (.request 7#32) ≠ some .abort ∧
    step (push (.request 7#32) (sending 0 [])) = .next (effect (.encode 7) (sending 0 [])) :=
  ⟨inv_ends.1, rfl, by decide, by decide, rfl⟩

theorem witness_EncodingIsResumable : BlockInv (sending 0 []) ∧ (sending 0 []).busy = true := ⟨inv_ends.1, rfl⟩

theorem witness_RequestsPerFrame :
    BlockInv { sending 0 [] with params := fix 100 } ∧ { sending 0 [] with params := fix 100 }.busy = true ∧
    { sending 0 [] with params := fix 100 }.bitpos = 0 ∧ { sending 0 [] with params := fix 100 }.params.ledCount = 100 :=
  ⟨by constructor <;> decide +kernel, rfl, rfl, rfl⟩

theorem witness_EncodeMakesProgress :
    BlockInv atReset ∧ atReset.busy = true ∧ (∀ c ∈ List.replicate 25 1, 1 ≤ c) ∧
    24 * atReset.params.ledCount + 1 ≤ (List.replicate 25 1).length := ⟨inv_ends.2, rfl, by decide, by decide⟩

theorem witness_AbortEndsFrame :
    (fresh 1).init = false ∧ atReset.init = true ∧ BlockInv red ∧ red.busy = false := ⟨rfl, rfl, inv_red, rfl⟩

theorem witness_SetPixelColorSequence :
    BlockInv { red with inputs := (Pseudo.setPixelColor 0#32 oneWord 0#32 0#32 255).inputs } ∧ red.init = true ∧
    (255 : Nat) < 256 ∧ (0#32).toNat < red.params.ledCount ∧ red.params.ledCount ≤ (1#32).toNat :=
  ⟨by constructor <;> decide +kernel, rfl, by decide, by decide, by decide⟩

/-- A request of no capacity, and a register write. -/
theorem witness_FrameWaitsForTheSink :
    BlockInv atReset ∧ atReset.busy = true ∧ atReset.inputs = [] ∧ asksForWords (.request 0#32) = false ∧
    asksForWords (.request 1#32) = true ∧ ¬cutsFrame atReset.params (.request 0#32) ∧
    step (push (.request 0#32) atReset) = .next (effect (.encode 0) atReset) :=
  ⟨inv_ends.2, rfl, rfl, by decide, by decide, by simp [cutsFrame, inputInstr, decodeRequest], rfl⟩

/-- The sink asks for the reset word once. -/
def askOnce : Nat → List Input
  | 0 => [.request 1#32]
  | _ + 1 => []

/-- The states of that execution: the frame completes in its first step. -/
def completing : Nat → State
  | 0 => atReset
  | _ + 1 => effect (.encode 1) atReset

theorem completing_execution : Execution askOnce completing
  | 0 => rfl
  | _ + 1 => rfl

/-- A fair sink. -/
theorem witness_FramesCompleteUnderFairSink_fair :
    Execution askOnce completing ∧ BlockInv (completing 0) ∧ (completing 0).busy = true ∧ SinkFair askOnce completing ∧
    ∀ x, servedAt askOnce completing 0 = some x → ¬cutsFrame (completing 0).params x := by
  refine ⟨completing_execution, inv_ends.2, rfl, fun n hn => ?_, fun x hx => ?_⟩
  · cases n with
    | zero => exact ⟨0, Nat.le_refl 0, .inr (by decide)⟩
    | succ n => exact absurd hn (show ¬(effect (.encode 1) atReset).busy = true by decide +kernel)
  · obtain rfl : Input.request 1#32 = x := by simpa [servedAt, completing, askOnce, atReset, sending, ready, fresh,
      State.arrive, State.resetWith] using hx
    simp [cutsFrame, inputInstr, decodeRequest]

/-- A sink that stops asking. -/
theorem witness_FramesCompleteUnderFairSink_silent :
    Execution (fun _ => []) (fun _ => atReset) ∧ BlockInv atReset ∧ atReset.busy = true ∧
    (∀ k x, servedAt (fun _ => []) (fun _ => atReset) k = some x →
      asksForWords x = false ∧ ¬cutsFrame atReset.params x) ∧ ¬SinkFair (fun _ => []) (fun _ => atReset) := by
  refine ⟨fun _ => rfl, inv_ends.2, rfl, fun k x hx => ?_, fun hf => ?_⟩
  · cases hx
  · obtain ⟨m, _, h | h⟩ := hf 0 rfl
    · exact absurd h (show ¬atReset.busy = false by decide)
    · exact absurd h Bool.false_ne_true

end Sys2Proof.Tests
end

section
/-! The state, its flags and its registers (`10_state.md`): what a read of the host port gives, the reset values, and
which steps write `Init`, `Sel` and `Busy`. -/

namespace Sys2Proof.Machine

/-! ## Reads and reset -/

/-- The register table and the offsets agree (R22). -/
@[simp] theorem regAt_regOffset (r : Reg) : regAt (regOffset r) = some r := by cases r <;> rfl

theorem regOffset_lt_windowBytes (r : Reg) : regOffset r < windowBytes := by cases r <;> decide

/-- A whole aligned access at a register's offset is the access to that register (R50). -/
theorem hostAccess_regOffset (r : Reg) (op : BusOp) (s : State) : hostAccess (regOffset r) 4 op s = regAccess r op s := by
  have hwindow : ¬windowBytes ≤ regOffset r := not_le.2 (regOffset_lt_windowBytes r)
  simp [hostAccess, hwindow]

/-- A whole aligned read is the step `readStep` (R25). -/
theorem step_push_read (r : Reg) (s : State) : step (push (.host (regOffset r) 4 .read) s) = .next (readStep r s) := by
  rw [step_push]
  exact hostAccess_regOffset r .read s

/-- `STATUS` after reset (R24). -/
theorem statusWord_resetWith (p : Params) : statusWord (State.resetWith p) = 0#32 := by
  simp [statusWord, State.resetWith, phaseBit, resultBits]

/-- Settles O8: a read adds the register's value to the trace, one register at a time. -/
theorem registerReadsReturnContents : Obligations.RegisterReadsReturnContents := fun s =>
  ⟨step_push_read .cmd s, step_push_read .status s, step_push_read .idx s, step_push_read .propR s,
    step_push_read .propG s, step_push_read .propB s, step_push_read .cursor s, step_push_read .info s⟩

/-- Settles O13: the registers and flags by computation, the two stores because nothing is listed in them. -/
theorem resetValues : Obligations.ResetValues := by
  refine ⟨rfl, fun p => ?_⟩
  have hpix (i : Nat) : getPix (State.resetWith p) i = Pixel.reset := getPix_nil rfl i
  have htx (k : Nat) : getTx (State.resetWith p) k = 0#8 := getTx_nil rfl k
  exact ⟨rfl, statusWord_resetWith p, rfl, rfl, rfl, rfl, rfl, rfl, rfl,
    fun i => by simp [hpix, Pixel.reset], htx, rfl, rfl, rfl, rfl, rfl, rfl⟩

/-! ## What the steps do, by the instruction an input brings -/

@[simp] theorem inputInstr_reset (p : Params) : inputInstr p .reset = none := rfl

/-- Everything the step of a pushed input can do: it runs the instruction that the input brings, and where it brings
none it is a plain access or a reset. -/
theorem step_push_cases {x : Input} {s t : State} (h : step (push x s) = .next t) :
    (∃ i, inputInstr s.params x = some i ∧ x ≠ .reset ∧ t = effect i s) ∨
    (inputInstr s.params x = none ∧ x ≠ .reset ∧ PlainStep s t) ∨
    (x = .reset ∧ t = resetBlock s) := by
  rw [step_push] at h
  cases hi : inputInstr s.params x with
  | some i =>
    rw [serve_instr hi, Host.Outcome.next.injEq] at h
    have hx : x ≠ .reset := by rintro rfl; cases hi
    exact .inl ⟨i, rfl, hx, h.symm⟩
  | none =>
    rcases serve_cases h with ⟨hx, hp⟩ | ⟨i, hi', -⟩ | ⟨hx, ht⟩
    · exact .inr (.inl ⟨rfl, hx, hp⟩)
    · simp [hi] at hi'
    · exact .inr (.inr ⟨hx, ht⟩)

/-- A plain access writes none of the flags, the selector and the latched words. -/
theorem PlainStep.flags {s t : State} (h : PlainStep s t) :
    t.init = s.init ∧ t.sel = s.sel ∧ t.tick = s.tick ∧ t.busy = s.busy := by
  rcases h with rfl | ⟨r, rfl⟩ | ⟨v, rfl⟩ | ⟨v, rfl⟩ | ⟨v, rfl⟩ | ⟨v, rfl⟩ | rfl <;> simp

/-- Everything the check of `Init` can do. -/
theorem requireInit_cases (k : State → State) (s : State) :
    (s.init = false ∧ requireInit k s = finish .notInit s) ∨ (s.init = true ∧ requireInit k s = k s) := by
  cases hi : s.init with
  | false => exact .inl ⟨rfl, requireInit_of_not_init hi⟩
  | true => exact .inr ⟨rfl, requireInit_of_init hi⟩

/-- Everything a request for words of a frame in flight can do to the encoder and `Busy`: end the frame with COMPLETE
(R156), or answer FULL and go on later from the place reached (R155, R157). -/
def FrameAnswer (s t : State) : Prop :=
  (∃ ws, t = respond ⟨ws, .complete⟩ { encoderStart s with busy := false }) ∨
  ∃ ws k ph, t = respond ⟨ws, .full⟩ { s with bitpos := k, phase := ph }

theorem encodeReset_frameAnswer (cap : Nat) (out : List SymbolWord) (s : State) :
    FrameAnswer s (encodeReset cap out s) := by
  rcases encodeReset_cases cap out s with ⟨-, h⟩ | ⟨-, h⟩
  · exact .inl ⟨_, h⟩
  · exact .inr ⟨_, s.bitpos, s.phase, h⟩

/-- The encoder's place, from which a request goes on, is no part of what its answer can be. -/
theorem FrameAnswer.of_place {s t : State} {k : Nat} {ph : Phase}
    (h : FrameAnswer { s with bitpos := k, phase := ph } t) : FrameAnswer s t := h

theorem encodeBytes_frameAnswer (cap : Nat) (s : State) : FrameAnswer s (encodeBytes cap s) := by
  rw [encodeBytes, encodeAfterLoop]
  split
  · exact .inr ⟨_, _, s.phase, rfl⟩
  · exact (encodeReset_frameAnswer cap _ _).of_place

/-- Everything ENCODE can do: answer IDLE when no frame is in flight (R153), and otherwise answer for the frame. -/
theorem encodeEffect_cases (cap : Nat) (s : State) :
    (s.busy = false ∧ encodeEffect cap s = respond ⟨[], .idle⟩ s) ∨
    (s.busy = true ∧ FrameAnswer s (encodeEffect cap s)) := by
  by_cases hb : s.busy = true
  · refine .inr ⟨hb, ?_⟩
    rw [encodeEffect, if_pos hb]
    split
    · exact encodeBytes_frameAnswer cap s
    · exact encodeReset_frameAnswer cap [] s
  · exact .inl ⟨Bool.eq_false_of_not_eq_true hb, by rw [encodeEffect, if_neg hb]⟩

/-! ## `Init` and `Sel` -/

/-- What INIT does to its flag and its selector, with its result. -/
theorem initEffect_init_sel (n : Nat) (s : State) :
    ((initEffect n s).init = true ∧ (initEffect n s).result = .ok) ∨
    ((initEffect n s).init = s.init ∧ (initEffect n s).sel = s.sel ∧ (initEffect n s).result = .initError) := by
  rcases initEffect_cases n s with h | ⟨-, -, -, -, h⟩ | ⟨-, -, -, -, h⟩ <;> simp [h]

theorem requireInit_profile {k : State → State} {s : State}
    (h : (k s).init = s.init ∧ (k s).sel = s.sel ∧ (k s).tick = s.tick) :
    (requireInit k s).init = s.init ∧ (requireInit k s).sel = s.sel ∧ (requireInit k s).tick = s.tick := by
  rcases requireInit_cases k s with ⟨-, hr⟩ | ⟨-, hr⟩ <;> simp [hr, h]

/-- No instruction but INIT writes `Init`, `Sel` or `Tick` (R33, R34). -/
theorem effect_profile {i : Instr} (hi : ∀ n, i ≠ .init n) (s : State) :
    (effect i s).init = s.init ∧ (effect i s).sel = s.sel ∧ (effect i s).tick = s.tick := by
  cases i with
  | init n => exact absurd rfl (hi n)
  | setPixel b =>
    apply requireInit_profile
    rcases setPixelEffect_cases b s with ⟨-, h⟩ | ⟨-, h⟩ <;> simp [h]
  | modBright b =>
    apply requireInit_profile
    rcases modBrightEffect_cases b s with ⟨-, h⟩ | ⟨-, h⟩ <;> simp [h]
  | transmit =>
    apply requireInit_profile
    rcases frameEffect_cases pack s with ⟨-, h⟩ | ⟨-, -, h⟩ | ⟨-, -, h⟩ <;> simp [h]
  | wipe =>
    apply requireInit_profile
    rcases frameEffect_cases blank s with ⟨-, h⟩ | ⟨-, -, h⟩ | ⟨-, -, h⟩ <;> simp [h]
  | abort =>
    apply requireInit_profile
    simp [abortEffect]
  | encode cap =>
    rcases encodeEffect_cases cap s with ⟨-, h⟩ | ⟨-, ⟨ws, h⟩ | ⟨ws, k, ph, h⟩⟩ <;> simp [effect, h]

/-- The writers of `Init` and `Sel` (R34): reset, an INIT that returns OK, and no other step. -/
theorem step_init_sel_cases {x : Input} {s t : State} (h : step (push x s) = .next t) :
    (x = .reset ∧ t.init = false ∧ t.sel = 0) ∨
    ((∃ n, inputInstr s.params x = some (.init n)) ∧ x ≠ .reset ∧ t.result = .ok ∧ t.init = true) ∨
    (x ≠ .reset ∧ t.init = s.init ∧ t.sel = s.sel ∧
      ((∃ n, inputInstr s.params x = some (.init n)) → t.result ≠ .ok)) := by
  rcases step_push_cases h with ⟨i, hi, hx, rfl⟩ | ⟨hi, hx, hp⟩ | ⟨hx, rfl⟩
  · by_cases hinit : ∃ n, i = .init n
    · obtain ⟨n, rfl⟩ := hinit
      rcases initEffect_init_sel n s with ⟨h1, hr⟩ | ⟨h1, h2, hr⟩
      · exact .inr (.inl ⟨⟨n, hi⟩, hx, hr, h1⟩)
      · exact .inr (.inr ⟨hx, h1, h2, fun _ => by simp [effect, hr]⟩)
    · obtain ⟨h1, h2, -⟩ := effect_profile (fun n hn => hinit ⟨n, hn⟩) s
      refine .inr (.inr ⟨hx, h1, h2, fun ⟨n, hn⟩ => ?_⟩)
      exact absurd ⟨n, Option.some.inj (hi.symm.trans hn)⟩ hinit
  · obtain ⟨h1, h2, -⟩ := hp.flags
    exact .inr (.inr ⟨hx, h1, h2, by simp [hi]⟩)
  · exact .inl ⟨hx, rfl, rfl⟩

/-! ## `Busy` -/

/-- INIT and the pixel commands do not write `Busy`. -/
theorem initEffect_busy (n : Nat) (s : State) : (initEffect n s).busy = s.busy := by
  rcases initEffect_cases n s with h | ⟨-, -, -, -, h⟩ | ⟨-, -, -, -, h⟩ <;> simp [h]

theorem setPixelEffect_busy (b : Nat) (s : State) : (setPixelEffect b s).busy = s.busy := by
  rcases setPixelEffect_cases b s with ⟨-, h⟩ | ⟨-, h⟩ <;> simp [h]

theorem modBrightEffect_busy (b : Nat) (s : State) : (modBrightEffect b s).busy = s.busy := by
  rcases modBrightEffect_cases b s with ⟨-, h⟩ | ⟨-, h⟩ <;> simp [h]

theorem requireInit_busy {k : State → State} {s : State} (h : (k s).busy = s.busy) :
    (requireInit k s).busy = s.busy := by
  rcases requireInit_cases k s with ⟨-, hr⟩ | ⟨-, hr⟩ <;> simp [hr, h]

/-- TRANSMIT and WIPE set `Busy` exactly when they return OK. -/
theorem requireInit_frameEffect_busy (fill : State → State) (s : State) :
    ((requireInit (frameEffect fill) s).result = .ok ∧ (requireInit (frameEffect fill) s).busy = true) ∨
    ((requireInit (frameEffect fill) s).result ≠ .ok ∧ (requireInit (frameEffect fill) s).busy = s.busy) := by
  rcases requireInit_cases (frameEffect fill) s with ⟨-, hr⟩ | ⟨-, hr⟩
  · simp [hr]
  · rcases frameEffect_cases fill s with ⟨-, h⟩ | ⟨-, -, h⟩ | ⟨-, -, h⟩ <;> simp [hr, h]

/-- ABORT clears `Busy` exactly when it returns OK. -/
theorem requireInit_abortEffect_busy (s : State) :
    ((requireInit abortEffect s).result = .ok ∧ (requireInit abortEffect s).busy = false) ∨
    ((requireInit abortEffect s).result ≠ .ok ∧ (requireInit abortEffect s).busy = s.busy) := by
  rcases requireInit_cases abortEffect s with ⟨-, hr⟩ | ⟨-, hr⟩ <;> simp [hr, abortEffect]

/-- The last observation after a response is that response. -/
@[simp] theorem lastFlag_append_response (tr : List Event) (r : Response) :
    lastFlag (tr ++ [.response r]) = some r.flag := by simp [lastFlag]

/-- ENCODE clears `Busy` exactly when its response is flagged COMPLETE. -/
theorem encodeEffect_busy (cap : Nat) (s : State) :
    (lastFlag (encodeEffect cap s).trace = some .complete ∧ (encodeEffect cap s).busy = false) ∨
    (lastFlag (encodeEffect cap s).trace ≠ some .complete ∧ (encodeEffect cap s).busy = s.busy) := by
  rcases encodeEffect_cases cap s with ⟨-, h⟩ | ⟨-, ⟨ws, h⟩ | ⟨ws, k, ph, h⟩⟩ <;> simp [h]

/-- The instructions that set `Busy`, by the state `t` they give: TRANSMIT and WIPE with result OK (R201, R205). -/
def SetsBusy (i : Instr) (t : State) : Prop := (i = .transmit ∨ i = .wipe) ∧ t.result = .ok

/-- The instructions that clear `Busy`, by the state `t` they give: ABORT with result OK (R165) and ENCODE with the flag
COMPLETE (R156). -/
def ClearsBusy (i : Instr) (t : State) : Prop :=
  (i = .abort ∧ t.result = .ok) ∨ ((∃ n, i = .encode n) ∧ lastFlag t.trace = some .complete)

/-- What each instruction does to `Busy`. -/
theorem effect_busy_cases (i : Instr) (s : State) :
    (SetsBusy i (effect i s) ∧ (effect i s).busy = true) ∨
    (ClearsBusy i (effect i s) ∧ (effect i s).busy = false) ∨
    (¬SetsBusy i (effect i s) ∧ ¬ClearsBusy i (effect i s) ∧ (effect i s).busy = s.busy) := by
  cases i with
  | init n => simp [SetsBusy, ClearsBusy, effect, initEffect_busy]
  | setPixel b => simp [SetsBusy, ClearsBusy, effect, requireInit_busy (setPixelEffect_busy b s)]
  | modBright b => simp [SetsBusy, ClearsBusy, effect, requireInit_busy (modBrightEffect_busy b s)]
  | transmit => simpa [SetsBusy, ClearsBusy, effect] using requireInit_frameEffect_busy pack s
  | wipe => simpa [SetsBusy, ClearsBusy, effect] using requireInit_frameEffect_busy blank s
  | abort => simpa [SetsBusy, ClearsBusy, effect] using requireInit_abortEffect_busy s
  | encode cap => simpa [SetsBusy, ClearsBusy, effect] using encodeEffect_busy cap s

/-- The writers of `Busy` (R34): reset, an instruction that sets or clears it, and no other step. -/
theorem step_busy_cases {x : Input} {s t : State} (h : step (push x s) = .next t) :
    (x = .reset ∧ t.busy = false) ∨
    (∃ i, inputInstr s.params x = some i ∧ SetsBusy i t ∧ t.busy = true) ∨
    (∃ i, inputInstr s.params x = some i ∧ ClearsBusy i t ∧ t.busy = false) ∨
    ((∀ i, inputInstr s.params x = some i → ¬SetsBusy i t ∧ ¬ClearsBusy i t) ∧ t.busy = s.busy) := by
  rcases step_push_cases h with ⟨i, hi, -, rfl⟩ | ⟨hi, -, hp⟩ | ⟨hx, rfl⟩
  · rcases effect_busy_cases i s with ⟨hset, hb⟩ | ⟨hclear, hb⟩ | ⟨hset, hclear, hb⟩
    · exact .inr (.inl ⟨i, hi, hset, hb⟩)
    · exact .inr (.inr (.inl ⟨i, hi, hclear, hb⟩))
    · refine .inr (.inr (.inr ⟨fun j hj => ?_, hb⟩))
      obtain rfl := Option.some.inj (hi.symm.trans hj)
      exact ⟨hset, hclear⟩
  · obtain ⟨-, -, -, hb⟩ := hp.flags
    exact .inr (.inr (.inr ⟨by simp [hi], hb⟩))
  · exact .inl ⟨hx, rfl⟩

/-- Settles O18: the first four clauses are read off `step_init_sel_cases`, the next five off `step_busy_cases`. -/
theorem writersOfInitSelBusy : Obligations.WritersOfInitSelBusy := by
  intro x s t h
  refine ⟨?initSet, ?initOk, ?initCleared, ?selWritten, ?busySet, ?frameOk, ?busyCleared, ?complete, ?abortOk, ?reset⟩
  case initSet | initOk | initCleared | selWritten =>
    rcases step_init_sel_cases h with ⟨rfl, h1, h2⟩ | ⟨hn, hx, hr, h1⟩ | ⟨hx, h1, h2, hr⟩
    · simp [h1]
    · simp [hn, hr, h1]
    · grind
  case busySet | frameOk | busyCleared | complete | abortOk =>
    rcases step_busy_cases h with ⟨rfl, hb⟩ | ⟨i, hi, ⟨hframe, hr⟩, hb⟩ | ⟨i, hi, hclear, hb⟩ | ⟨hnone, hb⟩
    · simp [hb]
    · rcases hframe with rfl | rfl <;> simp [hi, hr, hb]
    · rcases hclear with ⟨rfl, hr⟩ | ⟨⟨n, rfl⟩, hf⟩
      · simp [hi, hr, hb]
      · simp [hi, hf, hb]
    · simp only [SetsBusy, ClearsBusy] at hnone
      grind
  case reset =>
    rintro rfl
    obtain rfl : resetBlock s = t := Host.Outcome.next.inj h
    exact ⟨rfl, rfl, rfl⟩

end Sys2Proof.Machine
end

section
/-! The transmit buffer (`20_memory.md`): where a pack puts the channels of a pixel. -/

namespace Sys2Proof.Machine

/-- The byte for place `j` of pixel `i` is the channel that the active profile's order names there (R55, R140). -/
theorem packByte_three_mul_add (s : State) (i : Nat) {j : Nat} (hj : j < 3) :
    packByte s (3 * i + j) = channelOf (getPix s i).c8 (orderAt (profile s.params s.sel).order j) := by
  have hpixel : (3 * i + j) / 3 = i := by omega
  have hplace : (3 * i + j) % 3 = j := by omega
  rw [packByte, Config.bpp, hpixel, hplace]

/-- Byte `3i + j` of a packed buffer (R55). -/
theorem getTx_pack_three_mul_add {s : State} {i j : Nat} (hi : i < s.params.ledCount) (hj : j < 3) :
    getTx (pack s) (3 * i + j) = channelOf (getPix s i).c8 (orderAt (profile s.params s.sel).order j) := by
  have hbyte : 3 * i + j < nBytes s.params := by rw [nBytes, Config.bpp]; omega
  rw [getTx_pack, if_pos hbyte, packByte_three_mul_add s i hj]

/-- Settles O39: bytes `3i`, `3i + 1` and `3i + 2` hold the channels at places 0, 1 and 2 of the order, by cases on the
order. -/
theorem channelOrderBytes : Obligations.ChannelOrderBytes := by
  intro s i hi
  have h0 := getTx_pack_three_mul_add hi (j := 0) (by decide)
  have h1 := getTx_pack_three_mul_add hi (j := 1) (by decide)
  have h2 := getTx_pack_three_mul_add hi (j := 2) (by decide)
  rw [Nat.add_zero] at h0
  rw [h0, h1, h2]
  cases (profile s.params s.sel).order <;> rfl

end Sys2Proof.Machine
end

section
/-! Encoding (`30_encoding.md`): the three fields of a command word, which instruction a word decodes to, read off its
fields, and from that the match and mask table of R99 and the effect of an ILLEGAL word. -/

namespace Sys2Proof

/-! ## The fields of a command word (R81) -/

theorem opField_eq (v : Word) : opField v = v.toNat % 256 := by simp [opField]

theorem immField_eq (v : Word) : immField v = v.toNat / 256 % 256 := by
  simp [immField, Nat.shiftRight_eq_div_pow]

theorem rsvField_eq (v : Word) : rsvField v = v.toNat / 65536 := by
  have h := v.isLt
  rw [rsvField, BitVec.extractLsb'_toNat, Nat.shiftRight_eq_div_pow]
  omega

/-- A command word is its three fields, put together. -/
theorem rsv_append_imm_append_op (v : Word) :
    v.extractLsb' 16 16 ++ (v.extractLsb' 8 8 ++ v.extractLsb' 0 8) = v := by
  have hlow : v.extractLsb' 8 8 ++ v.extractLsb' 0 8 = v.extractLsb' 0 16 :=
    BitVec.extractLsb'_append_extractLsb'_eq_extractLsb' rfl
  have hword : v.extractLsb' 16 16 ++ v.extractLsb' 0 16 = v.extractLsb' 0 32 :=
    BitVec.extractLsb'_append_extractLsb'_eq_extractLsb' rfl
  rw [hlow, hword, BitVec.extractLsb'_eq_self]

/-- The mask of the first three rows keeps RSV and OP and drops IMM8. -/
theorem and_immMask (v : Word) :
    v &&& 0xFFFF00FF#32 = v.extractLsb' 16 16 ++ (0#8 ++ v.extractLsb' 0 8) := by
  have hmask : (0xFFFF00FF#32) = BitVec.allOnes 16 ++ (0#8 ++ BitVec.allOnes 8) := rfl
  conv_lhs => rw [← rsv_append_imm_append_op v, hmask, BitVec.and_append, BitVec.and_append]
  rw [BitVec.and_allOnes, BitVec.and_allOnes, BitVec.and_zero]

theorem toNat_and_immMask (v : Word) : (v &&& 0xFFFF00FF#32).toNat = rsvField v * 65536 + opField v := by
  have hop : opField v < 2 ^ 16 := by rw [opField_eq]; omega
  have hor := Nat.shiftLeft_add_eq_or_of_lt hop (rsvField v)
  rw [and_immMask, BitVec.toNat_append, BitVec.toNat_append, BitVec.toNat_ofNat, ← opField, ← rsvField]
  simpa [Nat.shiftLeft_eq] using hor.symm

/-- A word matches a row of a command that takes an immediate when RSV is 0 and OP is the row's opcode. -/
theorem and_immMask_eq_iff (v : Word) {op : Nat} (hop : op < 256) :
    v &&& 0xFFFF00FF#32 = BitVec.ofNat 32 op ↔ rsvField v = 0 ∧ opField v = op := by
  have hfield : opField v < 256 := by rw [opField_eq]; omega
  rw [← BitVec.toNat_inj, toNat_and_immMask, BitVec.toNat_ofNat]
  omega

/-- A word matches a row of a command that takes no immediate when, besides, IMM8 is 0. -/
theorem and_fullMask_eq_iff (v : Word) {op : Nat} (hop : op < 256) :
    v &&& 0xFFFFFFFF#32 = BitVec.ofNat 32 op ↔ rsvField v = 0 ∧ opField v = op ∧ immField v = 0 := by
  have hmask : (0xFFFFFFFF#32) = BitVec.allOnes 32 := rfl
  rw [hmask, BitVec.and_allOnes, ← BitVec.toNat_inj, BitVec.toNat_ofNat, rsvField_eq, opField_eq, immField_eq]
  omega

/-! ## What a command word decodes to (R98) -/

/-- The instruction that an opcode and an immediate stand for. -/
def StandsFor (op imm : Nat) : Instr → Prop
  | .init n => op = 1 ∧ imm = n
  | .setPixel n => op = 2 ∧ imm = n
  | .modBright n => op = 3 ∧ imm = n
  | .transmit => op = 4 ∧ imm = 0
  | .wipe => op = 5 ∧ imm = 0
  | .abort => op = 6 ∧ imm = 0
  | .encode _ => False

theorem withoutImmediate_ok_iff {imm : Nat} {i j : Instr} : withoutImmediate imm i = .ok j ↔ imm = 0 ∧ i = j := by
  by_cases h : imm = 0 <;> simp [withoutImmediate, h]

theorem decodeOp_ok_iff {op imm : Nat} {i : Instr} : decodeOp op imm = .ok i ↔ StandsFor op imm i := by
  match op with
  | 0 | 1 | 2 | 3 | 4 | 5 | 6 | n + 7 => cases i <;> simp [decodeOp, StandsFor, withoutImmediate_ok_iff]

/-- A command word decodes to an instruction exactly when RSV is 0 and its other fields stand for it. -/
theorem decodeCmd_ok_iff {v : Word} {i : Instr} :
    decodeCmd v = .ok i ↔ rsvField v = 0 ∧ StandsFor (opField v) (immField v) i := by
  by_cases h : rsvField v = 0 <;> simp [decodeCmd, h, decodeOp_ok_iff]

/-- A word is ILLEGAL exactly when it decodes to no instruction. -/
theorem decodeCmd_error_iff {v : Word} : (∃ e, decodeCmd v = .error e) ↔ ∀ i, decodeCmd v ≠ .ok i := by
  cases decodeCmd v <;> simp

/-! ## The match and mask table (R99) -/

/-- The instruction of a command, with `imm` as its immediate where it takes one (R82). -/
def Command.instr (imm : Nat) : Command → Instr
  | .init => .init imm
  | .setPixel => .setPixel imm
  | .modBright => .modBright imm
  | .transmit => .transmit
  | .wipe => .wipe
  | .abort => .abort

@[simp] theorem Command.command?_instr (c : Command) (imm : Nat) : (c.instr imm).command? = some c := by cases c <;> rfl

theorem StandsFor.eq_instr {op imm : Nat} {i : Instr} (h : StandsFor op imm i) : ∃ c : Command, i = c.instr imm := by
  cases i with
  | init n => exact ⟨.init, congrArg _ h.2.symm⟩
  | setPixel n => exact ⟨.setPixel, congrArg _ h.2.symm⟩
  | modBright n => exact ⟨.modBright, congrArg _ h.2.symm⟩
  | transmit => exact ⟨.transmit, rfl⟩
  | wipe => exact ⟨.wipe, rfl⟩
  | abort => exact ⟨.abort, rfl⟩
  | encode cap => exact h.elim

/-- Every command has its row. -/
theorem exists_row (c : Command) : ∃ r ∈ opcodeRows, r.command = c := by cases c <;> decide

/-- No two rows are of one command. -/
theorem row_eq_of_command_eq :
    ∀ r ∈ opcodeRows, ∀ r' ∈ opcodeRows, r.command = r'.command → r = r' := by decide

theorem OpcodeRow.matches_iff {r : OpcodeRow} {v : Word} : r.matches v = true ↔ v &&& r.mask = r.pattern := beq_iff_eq

/-- A word matches a row exactly when it decodes to the row's command with IMM8 as the immediate. -/
theorem decodeCmd_instr_iff_matches {r : OpcodeRow} (hr : r ∈ opcodeRows) (v : Word) :
    decodeCmd v = .ok (r.command.instr (immField v)) ↔ r.matches v = true := by
  rw [decodeCmd_ok_iff, OpcodeRow.matches_iff]
  simp only [opcodeRows, List.mem_cons, List.not_mem_nil, or_false] at hr
  rcases hr with rfl | rfl | rfl | rfl | rfl | rfl
  · simp [Command.instr, StandsFor, and_immMask_eq_iff v (op := 1) (by decide)]
  · simp [Command.instr, StandsFor, and_immMask_eq_iff v (op := 2) (by decide)]
  · simp [Command.instr, StandsFor, and_immMask_eq_iff v (op := 3) (by decide)]
  · rw [and_fullMask_eq_iff v (op := 4) (by decide)]; rfl
  · rw [and_fullMask_eq_iff v (op := 5) (by decide)]; rfl
  · rw [and_fullMask_eq_iff v (op := 6) (by decide)]; rfl

/-- A word that decodes matches a row. -/
theorem exists_matches_of_decodeCmd_ok {v : Word} {i : Instr} (h : decodeCmd v = .ok i) :
    ∃ r ∈ opcodeRows, r.matches v = true := by
  obtain ⟨c, rfl⟩ := (decodeCmd_ok_iff.1 h).2.eq_instr
  obtain ⟨r, hr, rfl⟩ := exists_row c
  exact ⟨r, hr, (decodeCmd_instr_iff_matches hr v).1 h⟩

/-- A word that matches no row is ILLEGAL, and no other word is. -/
theorem decodeCmd_error_iff_no_match (v : Word) :
    (∃ e, decodeCmd v = .error e) ↔ ∀ r ∈ opcodeRows, r.matches v = false := by
  rw [decodeCmd_error_iff]
  constructor
  · intro h r hr
    exact Bool.eq_false_of_not_eq_true fun hm => h _ ((decodeCmd_instr_iff_matches hr v).2 hm)
  · intro h i hi
    obtain ⟨r, hr, hm⟩ := exists_matches_of_decodeCmd_ok hi
    exact Bool.false_ne_true ((h r hr).symm.trans hm)

/-- At most one row matches a word: both rows would be of the command that the word decodes to. -/
theorem row_unique {v : Word} {r r' : OpcodeRow} (hr : r ∈ opcodeRows) (hr' : r' ∈ opcodeRows)
    (hm : r.matches v = true) (hm' : r'.matches v = true) : r = r' := by
  have hd := (decodeCmd_instr_iff_matches hr v).2 hm
  have hd' := (decodeCmd_instr_iff_matches hr' v).2 hm'
  have hinstr := Except.ok.inj (hd.symm.trans hd')
  have hcommand := congrArg Instr.command? hinstr
  rw [Command.command?_instr, Command.command?_instr, Option.some.injEq] at hcommand
  exact row_eq_of_command_eq r hr r' hr' hcommand

/-- Settles O3: the six rows are `decodeCmd_instr_iff_matches`, row by row. -/
theorem matchMaskTableDecidesDecoding : Obligations.MatchMaskTableDecidesDecoding := by
  intro v
  have hrow : ∀ r ∈ opcodeRows,
      (decodeCmd v = .ok (r.command.instr (v.toNat / 256 % 256)) ↔ v &&& r.mask = r.pattern) := by
    intro r hr
    rw [← immField_eq, decodeCmd_instr_iff_matches hr, OpcodeRow.matches_iff]
  simp only [opcodeRows, List.forall_mem_cons] at hrow
  obtain ⟨hinit, hsetPixel, hmodBright, htransmit, hwipe, habort, -⟩ := hrow
  exact ⟨hinit, hsetPixel, hmodBright, htransmit, hwipe, habort, decodeCmd_error_iff_no_match v,
    fun _ hr _ hr' => row_unique hr hr', rfl⟩

/-! ## ILLEGAL words (R85 to R87) -/

/-- RSV is checked before all else (R85). -/
theorem decodeCmd_of_rsvField_ne_zero {v : Word} (h : rsvField v ≠ 0) : decodeCmd v = .error .reservedBits := if_pos h

/-- No instruction has a nonzero RSV, a reserved opcode, or an immediate with an opcode that takes none. -/
theorem legal_fields_of_decodeCmd_ok {v : Word} {i : Instr} (h : decodeCmd v = .ok i) :
    rsvField v = 0 ∧ 1 ≤ opField v ∧ opField v < 7 ∧ (4 ≤ opField v → immField v = 0) := by
  obtain ⟨hrsv, hfor⟩ := decodeCmd_ok_iff.1 h
  refine ⟨hrsv, ?_⟩
  cases i with
  | init | setPixel | modBright | transmit | wipe | abort => obtain ⟨hop, himm⟩ := hfor; omega
  | encode cap => exact hfor.elim

/-- Every IMM8 is legal with the opcodes 1 to 3 (R87). -/
theorem decodeCmd_ok_of_opField {v : Word} (hrsv : rsvField v = 0) (h1 : 1 ≤ opField v) (h3 : opField v ≤ 3) :
    ∃ i, decodeCmd v = .ok i := by
  simp only [decodeCmd_ok_iff]
  obtain hop | hop | hop : opField v = 1 ∨ opField v = 2 ∨ opField v = 3 := by omega
  · exact ⟨.init (immField v), hrsv, hop, rfl⟩
  · exact ⟨.setPixel (immField v), hrsv, hop, rfl⟩
  · exact ⟨.modBright (immField v), hrsv, hop, rfl⟩

end Sys2Proof

namespace Sys2Proof.Machine

/-- A write to CMD carries out the command word (R80). -/
theorem step_push_cmd (v : Word) (s : State) : step (push (.host 0x00 4 (.write v)) s) = command v s :=
  (step_push _ s).trans (hostAccess_regOffset .cmd (.write v) s)

/-- A command word that decodes to no instruction changes only RESULT. -/
theorem step_push_cmd_illegal {v : Word} (h : ∀ i, decodeCmd v ≠ .ok i) (s : State) :
    step (push (.host 0x00 4 (.write v)) s) = .next { s with result := .illegal } := by
  obtain ⟨e, he⟩ := decodeCmd_error_iff.2 h
  rw [step_push_cmd, command_error he, finish]

/-- Settles O4: no word of the first clause has the fields of an instruction. -/
theorem illegalWordsOnlyRecordIllegal : Obligations.IllegalWordsOnlyRecordIllegal := by
  intro v s
  rw [← rsvField_eq, ← opField_eq, ← immField_eq]
  refine ⟨fun hv => step_push_cmd_illegal (fun i hi => ?_) s,
    decodeCmd_of_rsvField_ne_zero, decodeCmd_ok_of_opField⟩
  obtain ⟨hrsv, hop1, hop7, himm⟩ := legal_fields_of_decodeCmd_ok hi
  omega

end Sys2Proof.Machine
end

section
/-! The colour model (`40_color_model.md`): the clamp of a proportion word by the ranges of the word, the value of a
canonical word, the gamma index as the rounded exact product, and each channel of `computeColor8` as the table entry at
that index. -/

namespace Sys2Proof.Machine

/-! ## The clamp of a proportion word (R114) -/

theorem canonicalWord_iff {w : Word} : CanonicalWord w ↔ w.toNat ≤ 0x3F800000 := Iff.rfl

theorem oneWord_lt_iff {w : Word} : oneWord < w ↔ 0x3F800000 < w.toNat := Iff.rfl

theorem infWord_lt_iff {w : Word} : infWord < w ↔ 0x7F800000 < w.toNat := Iff.rfl

/-- The words with bit 31 set are those from 0x80000000 on. -/
theorem signBit_iff {w : Word} : w.getLsbD 31 = true ↔ 0x80000000 ≤ w.toNat := by
  rw [← BitVec.msb_eq_getLsbD_last, BitVec.msb_eq_decide, decide_eq_true_eq]

theorem clampProp_of_canonical {w : Word} (h : CanonicalWord w) : clampProp w = w := by
  rw [canonicalWord_iff] at h
  have hsign : ¬w.getLsbD 31 = true := by rw [signBit_iff]; omega
  have hinf : ¬infWord < w := by rw [infWord_lt_iff]; omega
  have hone : ¬oneWord < w := by rw [oneWord_lt_iff]; omega
  rw [clampProp, if_neg hsign, if_neg hinf, if_neg hone]

/-- A word above 1.0 and up to +∞ clamps to 1.0. -/
theorem clampProp_of_gt_one {w : Word} (hone : 0x3F800000 < w.toNat) (hinf : w.toNat ≤ 0x7F800000) :
    clampProp w = oneWord := by
  have hsign : ¬w.getLsbD 31 = true := by rw [signBit_iff]; omega
  have hinf' : ¬infWord < w := by rw [infWord_lt_iff]; omega
  rw [clampProp, if_neg hsign, if_neg hinf', if_pos (oneWord_lt_iff.2 hone)]

/-- A word above +∞, a NaN or one with its sign bit set, clamps to 0.0. -/
theorem clampProp_of_gt_inf {w : Word} (hinf : 0x7F800000 < w.toNat) : clampProp w = 0#32 := by
  rw [clampProp, if_pos (infWord_lt_iff.2 hinf), ite_self]

theorem clampProp_canonical (w : Word) : CanonicalWord (clampProp w) := by
  by_cases hone : w.toNat ≤ 0x3F800000
  · rwa [clampProp_of_canonical hone]
  by_cases hinf : w.toNat ≤ 0x7F800000
  · rw [clampProp_of_gt_one (by omega) hinf]
    exact BitVec.le_refl oneWord
  · rw [clampProp_of_gt_inf (by omega)]
    decide

/-- Settles O29: a clamp lemma for each range of words; a clamped word is canonical, and so is kept. -/
theorem clampPropByWord : Obligations.ClampPropByWord := by
  intro w
  refine ⟨fun hsign => clampProp_of_gt_inf ?_, fun _ => clampProp_of_gt_inf, clampProp_of_gt_one,
    clampProp_of_canonical, clampProp_canonical w, clampProp_of_canonical (clampProp_canonical w)⟩
  rw [signBit_iff] at hsign
  omega

/-! ## The value of a canonical word (R113) -/

theorem expField_eq (w : Word) : expField w = w.toNat / 2 ^ 23 % 256 := by
  simp [expField, BitVec.extractLsb'_toNat, Nat.shiftRight_eq_div_pow]

theorem fracField_eq (w : Word) : fracField w = w.toNat % 2 ^ 23 := by
  simp [fracField, BitVec.extractLsb'_toNat]

/-- A canonical word is below 1.0, with an exponent field below 127, or is the word of 1.0. -/
theorem CanonicalWord.expField_lt_or_eq_one {c : Word} (h : CanonicalWord c) : expField c < 127 ∨ c = oneWord := by
  rw [canonicalWord_iff] at h
  rw [expField_eq, ← BitVec.toNat_inj, oneWord, BitVec.toNat_ofNat]
  omega

@[simp] theorem magnitude_oneWord : magnitude oneWord = 2 ^ 149 := by decide

/-- A word with an exponent field below 127 stands for less than 1.0, which is `2 ^ 149` units. -/
theorem magnitude_le_of_expField_lt {c : Word} (h : expField c < 127) : magnitude c ≤ 2 ^ 149 := by
  have hfrac : fracField c < 2 ^ 23 := by rw [fracField_eq]; omega
  rw [magnitude]
  split
  · omega
  · calc (2 ^ 23 + fracField c) * 2 ^ (expField c - 1)
        ≤ 2 ^ 24 * 2 ^ 125 := Nat.mul_le_mul (by omega) (Nat.pow_le_pow_right (by decide) (by omega))
      _ = 2 ^ 149 := by rw [← Nat.pow_add]

/-- A canonical word stands for at most 1.0. -/
theorem CanonicalWord.magnitude_le {c : Word} (h : CanonicalWord c) : magnitude c ≤ 2 ^ 149 := by
  rcases h.expField_lt_or_eq_one with hexp | rfl
  · exact magnitude_le_of_expField_lt hexp
  · exact magnitude_oneWord.le

theorem CanonicalWord.value_eq {c : Word} (h : CanonicalWord c) : value c = .finite false (magnitude c) := by
  rw [canonicalWord_iff] at h
  have hexp : expField c ≤ 254 := by rw [expField_eq]; omega
  have hsign : c.getLsbD 31 = false := by rw [← Bool.not_eq_true, signBit_iff]; omega
  rw [value, if_pos hexp, hsign]

/-! ## The gamma index (R115, R116) -/

theorem roundHalfUp_eq_floor (num : Nat) {den : Nat} (hden : den ≠ 0) :
    (roundHalfUp num den : ℤ) = ⌊(num : ℚ) / den + 1 / 2⌋ := by
  have hsum : (num : ℚ) / den + 1 / 2 = (2 * num + den : Nat) / (2 * den : Nat) := by
    push_cast
    field_simp
  rw [hsum, Rat.floor_natCast_div_natCast, roundHalfUp, Int.natCast_ediv]

theorem roundHalfUp_mono {num num' : Nat} (den : Nat) (h : num ≤ num') : roundHalfUp num den ≤ roundHalfUp num' den :=
  Nat.div_le_div_right (by omega)

/-- A whole number is its own rounding. -/
theorem roundHalfUp_mul_self (k : Nat) {den : Nat} (hden : den ≠ 0) : roundHalfUp (den * k) den = k := by
  rw [roundHalfUp, ← Nat.mul_assoc, Nat.mul_add_div (by omega), Nat.div_eq_of_lt (by omega), Nat.add_zero]

/-- The product of a canonical word with a brightness rounds to at most the brightness. -/
theorem CanonicalWord.roundHalfUp_le {c : Word} (h : CanonicalWord c) (b : Nat) :
    roundHalfUp (magnitude c * b) (2 ^ 149) ≤ b :=
  calc roundHalfUp (magnitude c * b) (2 ^ 149)
      ≤ roundHalfUp (2 ^ 149 * b) (2 ^ 149) := roundHalfUp_mono _ (Nat.mul_le_mul_right b h.magnitude_le)
    _ = b := roundHalfUp_mul_self b (by decide)

/-- On a canonical word and a brightness of at most 100 the clamp of the gamma index changes nothing. -/
theorem CanonicalWord.gammaIndex_eq {c : Word} (h : CanonicalWord c) {b : Nat} (hb : b ≤ 100) :
    gammaIndex c b = roundHalfUp (magnitude c * b) (2 ^ 149) := by
  rw [gammaIndex, clamp, Nat.max_zero, Nat.min_eq_left ((h.roundHalfUp_le b).trans hb)]

theorem gammaIndex_le (c : Word) (b : Nat) : gammaIndex c b ≤ 100 := Nat.min_le_right _ _

@[simp] theorem gammaIndex_zero (c : Word) : gammaIndex c 0 = 0 := by rw [gammaIndex, Nat.mul_zero]; decide

@[simp] theorem gammaIndex_oneWord_hundred : gammaIndex oneWord 100 = 100 := by decide

theorem gammaIndex_mono {c c' : Word} {b b' : Nat} (hc : magnitude c ≤ magnitude c') (hb : b ≤ b') :
    gammaIndex c b ≤ gammaIndex c' b' := by
  have hround := roundHalfUp_mono (2 ^ 149) (Nat.mul_le_mul hc hb)
  rw [gammaIndex, gammaIndex, clamp, clamp]
  omega

/-- Settles O31: the clamp does nothing to a canonical word's index, and the rounding is the floor of the exact product
plus one half. -/
theorem gammaIndexRoundsExactProduct : Obligations.GammaIndexRoundsExactProduct := by
  refine ⟨fun c b hc hb => ⟨magnitude c, hc.value_eq, ?_, gammaIndex_le c b, ?_⟩, by decide⟩
  · rw [hc.gammaIndex_eq hb, roundHalfUp_eq_floor _ (by decide), Nat.cast_mul, mul_div_right_comm]
    norm_num
  · rintro rfl
    exact gammaIndex_zero c

/-! ## `computeColor8` (R112, R117, R119) -/

/-- Every lookup of a legal table at a gamma index is inside the table. -/
theorem getElem?_gammaIndex {p : Params} (hp : p.Legal) (c : Word) (b : Nat) :
    p.gamma[gammaIndex c b]? = some (channel8 p c b) := by
  obtain ⟨-, ⟨hlength, -⟩, -⟩ := hp
  have hindex : gammaIndex c b < p.gamma.length := by have := gammaIndex_le c b; omega
  rw [channel8, gammaLookup, List.getD_eq_getElem _ _ hindex, List.getElem?_eq_getElem hindex]

/-- A legal table is monotone (R111). -/
theorem gammaLookup_mono {p : Params} (hp : p.Legal) {i j : Nat} (hij : i ≤ j) (hj : j ≤ 100) :
    gammaLookup p i ≤ gammaLookup p j := by
  obtain ⟨-, ⟨hlength, hsorted, -⟩, -⟩ := hp
  rcases hij.eq_or_lt with rfl | hlt
  · exact BitVec.le_refl _
  · rw [gammaLookup, gammaLookup, List.getD_eq_getElem _ _ (by omega), List.getD_eq_getElem _ _ (by omega)]
    exact List.pairwise_iff_getElem.1 hsorted i j (by omega) (by omega) hlt

theorem channel8_zero {p : Params} (hp : p.Legal) (c : Word) : channel8 p c 0 = 0#8 := by
  have hentry := getElem?_gammaIndex hp c 0
  obtain ⟨-, ⟨-, -, hzero, -⟩, -⟩ := hp
  rw [gammaIndex_zero, hzero] at hentry
  exact (Option.some.inj hentry).symm

theorem channel8_oneWord_hundred {p : Params} (hp : p.Legal) : channel8 p oneWord 100 = 255#8 := by
  have hentry := getElem?_gammaIndex hp oneWord 100
  obtain ⟨-, ⟨-, -, -, hfull⟩, -⟩ := hp
  rw [gammaIndex_oneWord_hundred, hfull] at hentry
  exact (Option.some.inj hentry).symm

theorem channel8_mono {p : Params} (hp : p.Legal) {c c' : Word} {b b' : Nat} (hb : b ≤ b')
    (hc : magnitude c ≤ magnitude c') : channel8 p c b ≤ channel8 p c' b' :=
  gammaLookup_mono hp (gammaIndex_mono hc hb) (gammaIndex_le c' b')

/-- Settles O32: `getElem?_gammaIndex` for each channel, and the two ends of the table for black and white. -/
theorem colorIsGammaOfIndex : Obligations.ColorIsGammaOfIndex := by
  intro p prop b hp _ _
  refine ⟨getElem?_gammaIndex hp prop.r b, getElem?_gammaIndex hp prop.g b, getElem?_gammaIndex hp prop.b b, ?_, ?_⟩
  · rintro rfl
    simp only [computeColor8, channel8_zero hp]
  · rintro rfl rfl
    exact congrArg (fun x : Byte => (⟨x, x, x⟩ : Color8)) (channel8_oneWord_hundred hp)

/-- Settles O33: each channel of either colour is `channel8` of its own word and the brightness. -/
theorem colorChannelsMonotoneAndIndependent : Obligations.ColorChannelsMonotoneAndIndependent := by
  intro p q q' b b' hp _ _ hb _
  have hequal {c c' : Word} (h : c = c') : channel8 p c b = channel8 p c' b := h ▸ rfl
  exact ⟨channel8_mono hp hb, channel8_mono hp hb, channel8_mono hp hb, hequal, hequal, hequal, hequal, hequal, hequal⟩

end Sys2Proof.Machine
end

section
/-! The pixel buffer (`41_pixel_buffer.md`): SET_PIXEL and MOD_BRIGHT are one store into the pixel `IDX`, of the operand
registers' proportions and of the stored ones; what that store reads back as, and the words of the two commands. -/

namespace Sys2Proof

/-- A word made of an opcode and an immediate, with RSV = 0, decodes by those two fields. -/
theorem decodeCmd_ofNat {op n : Nat} (hop : op < 256) (hn : n < 256) :
    decodeCmd (BitVec.ofNat 32 (n * 256 + op)) = decodeOp op n := by
  have hword : (BitVec.ofNat 32 (n * 256 + op)).toNat = n * 256 + op := by
    rw [BitVec.toNat_ofNat, Nat.mod_eq_of_lt (by omega)]
  have hrsv : rsvField (BitVec.ofNat 32 (n * 256 + op)) = 0 := by rw [rsvField_eq, hword]; omega
  have himm : immField (BitVec.ofNat 32 (n * 256 + op)) = n := by rw [immField_eq, hword]; omega
  have hopcode : opField (BitVec.ofNat 32 (n * 256 + op)) = op := by rw [opField_eq, hword]; omega
  rw [decodeCmd, if_neg (not_not.2 hrsv), himm, hopcode]

end Sys2Proof

namespace Sys2Proof.Machine

/-- What a pixel command writes into the pixel it addresses: proportions `q` with their colour at the brightness (R131,
R135). -/
def shadedPixel (s : State) (q : Proportion) (n : Nat) : Pixel := ⟨q, computeColor8 s.params q (min n 100)⟩

/-- Both pixel commands after the check of `Init`, by the proportions they store (R131, R135). -/
def storePixel (q : Proportion) (n : Nat) (s : State) : State :=
  if s.params.ledCount ≤ s.idx.toNat then finish .indexError s
  else finish .ok (setPix s.idx.toNat (shadedPixel s q n) s)

/-- SET_PIXEL stores the clamped operand registers. -/
theorem exec_setPixel (n : Nat) (s : State) :
    exec (.setPixel n) s =
      .next (requireInit (storePixel ⟨clampProp s.propR, clampProp s.propG, clampProp s.propB⟩ n) s) := rfl

/-- MOD_BRIGHT stores the proportions that the pixel has already. -/
theorem exec_modBright (n : Nat) (s : State) :
    exec (.modBright n) s = .next (requireInit (storePixel (getPix s s.idx.toNat).prop n) s) := rfl

theorem storePixel_of_le {s : State} (h : s.params.ledCount ≤ s.idx.toNat) (q : Proportion) (n : Nat) :
    storePixel q n s = finish .indexError s := if_pos h

theorem storePixel_of_lt {s : State} (h : s.idx.toNat < s.params.ledCount) (q : Proportion) (n : Nat) :
    storePixel q n s = finish .ok (setPix s.idx.toNat (shadedPixel s q n) s) := if_neg (not_le.2 h)

/-- The result does not show in a read of the pixel store. -/
@[simp] theorem getPix_finish (c : ResultCode) (s : State) (j : Nat) : getPix (finish c s) j = getPix s j := rfl

/-- Reading a pixel after an accepted pixel command. -/
theorem getPix_storePixel {s : State} (h : s.idx.toNat < s.params.ledCount) (hwf : Sparse.wf Pixel.reset s.pix)
    (q : Proportion) (n j : Nat) :
    getPix (storePixel q n s) j = if j = s.idx.toNat then shadedPixel s q n else getPix s j := by
  rw [storePixel_of_lt h, getPix_finish, getPix_setPix hwf]

/-- An accepted pixel command writes only the pixel store and RESULT. -/
theorem storePixel_frame {s : State} (h : s.idx.toNat < s.params.ledCount) (q : Proportion) (n : Nat) :
    storePixel q n s = { s with pix := (storePixel q n s).pix, result := .ok } := by
  rw [storePixel_of_lt h]
  rfl

/-! ## An instruction that stores a pixel -/

section
variable {i : Instr} {q : Proportion} {n : Nat} {s : State}
  (hexec : exec i s = .next (requireInit (storePixel q n) s))
include hexec

theorem exec_pixel_of_not_init (hinit : s.init = false) : exec i s = .next { s with result := .notInit } := by
  rw [hexec, requireInit_of_not_init hinit, finish]

theorem exec_pixel_of_le (hinit : s.init = true) (hidx : s.params.ledCount ≤ s.idx.toNat) :
    exec i s = .next { s with result := .indexError } := by
  rw [hexec, requireInit_of_init hinit, storePixel_of_le hidx, finish]

theorem exec_pixel_of_lt (hinit : s.init = true) (hidx : s.idx.toNat < s.params.ledCount)
    (hwf : Sparse.wf Pixel.reset s.pix) :
    ∃ t, exec i s = .next t ∧ t = { s with pix := t.pix, result := .ok } ∧
      getPix t s.idx.toNat = shadedPixel s q n ∧ ∀ j, j ≠ s.idx.toNat → getPix t j = getPix s j := by
  refine ⟨storePixel q n s, ?next, storePixel_frame hidx q n, ?addressed, fun j hj => ?other⟩
  case next => rw [hexec, requireInit_of_init hinit]
  case addressed => rw [getPix_storePixel hidx hwf, if_pos rfl]
  case other => rw [getPix_storePixel hidx hwf, if_neg hj]

end

/-- Settles O34: SET_PIXEL stores the clamped operand registers, and its word decodes by its fields. -/
theorem setPixelWritesItsPixel : Obligations.SetPixelWritesItsPixel := fun n s =>
  have hexec := exec_setPixel n s
  ⟨exec_pixel_of_not_init hexec, exec_pixel_of_le hexec, exec_pixel_of_lt hexec, decodeCmd_ofNat (by decide)⟩

/-- Settles O35: MOD_BRIGHT stores the proportions it finds, and its word decodes by its fields. -/
theorem modBrightRecomputesColor : Obligations.ModBrightRecomputesColor := fun n s =>
  have hexec := exec_modBright n s
  ⟨exec_pixel_of_not_init hexec, exec_pixel_of_le hexec, exec_pixel_of_lt hexec, decodeCmd_ofNat (by decide)⟩

end Sys2Proof.Machine
end

section
/-! The pulse encoder (`42_pulse_encoder.md`): the payload bits, what ENCODE does in closed form by the words the frame
has left, that it keeps the invariant, and ABORT. -/

namespace Sys2Proof.Machine

/-! ## The reset word and the payload words -/

/-- Settles O27: the latched WR carries half of TRS twice, rounded down. -/
theorem resetGapWithinOneTick : Obligations.ResetGapWithinOneTick := by
  intro s hinv hinit
  obtain ⟨-, -, htick⟩ := hinv.latched hinit
  simp only [htick, profileTicks, wordWR, halfGap]
  split <;> omega

/-- A payload bit by arithmetic on its byte (R150). -/
theorem payloadBit_iff (s : State) (k : Nat) :
    payloadBit s k = true ↔ (getTx s (k / 8)).toNat / 2 ^ (7 - k % 8) % 2 = 1 := by
  rw [payloadBit, BitVec.getLsbD, Nat.testBit_eq_decide_div_mod_eq, decide_eq_true_eq]

/-- Settles O45: a payload bit by arithmetic, and the eight bits of the first byte one by one. -/
theorem payloadBitsMsbFirst : Obligations.PayloadBitsMsbFirst := by
  refine fun s => ⟨fun k _ => ?_, fun hbyte => ?_⟩
  · simp only [bitWord, payloadBit_iff]
  · simp [List.range_succ, bitWord, payloadBit, hbyte]

/-! ## What the frame in flight has left -/

theorem payloadBits_eq (p : Params) : payloadBits p = 24 * p.ledCount := by
  rw [payloadBits, nBytes, Config.bpp]
  omega

theorem remaining_of_idle {s : State} (h : s.busy = false) : remaining s = [] := by simp [remaining, h]

/-- What is left of the frame: the payload words from the cursor on, and then WR. -/
theorem remaining_of_busy {s : State} (hbusy : s.busy = true) (hcursor : s.bitpos ≤ payloadBits s.params) :
    remaining s = (List.range' s.bitpos (payloadBits s.params - s.bitpos)).map (bitWord s) ++ [s.tick.wr] := by
  rw [remaining, if_pos hbusy, frameStream, payloadStream, List.drop_append_of_le_length (by simpa), ← List.map_drop,
    List.range_eq_range', List.drop_range', Nat.zero_add, Nat.mul_one]

theorem length_remaining {s : State} (hbusy : s.busy = true) (hcursor : s.bitpos ≤ payloadBits s.params) :
    (remaining s).length = payloadBits s.params - s.bitpos + 1 := by
  simp [remaining_of_busy hbusy hcursor]

/-- The next words of the frame, as many as still are payload. -/
theorem take_remaining {s : State} (hbusy : s.busy = true) {n : Nat} (h : s.bitpos + n ≤ payloadBits s.params) :
    (remaining s).take n = (List.range' s.bitpos n).map (bitWord s) := by
  have hpayload : n ≤ ((List.range' s.bitpos (payloadBits s.params - s.bitpos)).map (bitWord s)).length := by
    rw [List.length_map, List.length_range']
    omega
  rw [remaining_of_busy hbusy (by omega), List.take_append_of_le_length hpayload, ← List.map_take,
    List.take_range'_of_length_ge (by omega)]

/-- A frame has at most all of its words left. -/
theorem length_remaining_le (s : State) : (remaining s).length ≤ 24 * s.params.ledCount + 1 := by
  rw [remaining]
  split
  · simp [frameStream, payloadStream, payloadBits_eq]
  · simp

/-! ## ENCODE in closed form (R151) -/

theorem encodeEffect_of_idle (cap : Nat) {s : State} (h : s.busy = false) :
    encodeEffect cap s = respond ⟨[], .idle⟩ s := by simp [encodeEffect, h]

/-- Settles O47: ENCODE with no frame in flight is one IDLE response. -/
theorem encodeWhileIdleReturnsIdle : Obligations.EncodeWhileIdleReturnsIdle := fun cap _ h =>
  congrArg Host.Outcome.next (encodeEffect_of_idle cap h)

/-- Phase EncodingBytes with the loop in closed form. -/
theorem encodeBytes_eq (cap : Nat) (s : State) :
    encodeBytes cap s = encodeAfterLoop cap (s.bitpos + min cap (payloadBits s.params - s.bitpos),
      (List.range' s.bitpos (min cap (payloadBits s.params - s.bitpos))).map (bitWord s)) s := by
  rw [encodeBytes, payloadLoop_encode]

/-- In flight, ENCODE is its phase EncodingBytes: at the end of the payload the loop does nothing, and what is left is
phase EncodingReset. -/
theorem BlockInv.encodeEffect_eq_encodeBytes {s : State} (hinv : BlockInv s) (hbusy : s.busy = true) (cap : Nat) :
    encodeEffect cap s = encodeBytes cap s := by
  rw [encodeEffect, if_pos hbusy]
  cases hphase : s.phase with
  | encodingBytes => rfl
  | encodingReset =>
    have hend := hinv.atReset hphase
    simp [encodeBytes_eq, encodeAfterLoop, ← hend, ← hphase]

/-- The phase at a place of the cursor: EncodingReset once the payload is used up (R155). -/
def phaseAt (p : Params) (k : Nat) : Phase := if k = 24 * p.ledCount then .encodingReset else .encodingBytes

theorem phaseAt_eq_encodingReset_iff {p : Params} {k : Nat} : phaseAt p k = .encodingReset ↔ k = payloadBits p := by
  simp [phaseAt, payloadBits_eq]

theorem phaseAt_eq_encodingBytes_iff {p : Params} {k : Nat} : phaseAt p k = .encodingBytes ↔ k ≠ payloadBits p := by
  simp [phaseAt, payloadBits_eq]

/-- In the invariant the cursor tells the phase of a frame in flight (R32). -/
theorem BlockInv.phase_eq {s : State} (hinv : BlockInv s) (hbusy : s.busy = true) :
    s.phase = phaseAt s.params s.bitpos := by
  cases hphase : s.phase with
  | encodingBytes => exact (phaseAt_eq_encodingBytes_iff.2 (hinv.inPayload hbusy hphase).ne).symm
  | encodingReset => exact (phaseAt_eq_encodingReset_iff.2 (hinv.atReset hphase)).symm

/-- With more words left than the capacity, ENCODE emits the next `cap` of them and stops there (R155, R157). -/
theorem BlockInv.encodeEffect_of_lt {s : State} (hinv : BlockInv s) (hbusy : s.busy = true) {cap : Nat}
    (h : cap < (remaining s).length) :
    encodeEffect cap s = respond ⟨(remaining s).take cap, .full⟩
      { s with bitpos := s.bitpos + cap, phase := phaseAt s.params (s.bitpos + cap) } := by
  have hcursor := hinv.cursor
  rw [length_remaining hbusy hcursor] at h
  rw [hinv.encodeEffect_eq_encodeBytes hbusy, encodeBytes_eq, Nat.min_eq_left (by omega),
    take_remaining hbusy (by omega), encodeAfterLoop]
  by_cases hend : s.bitpos + cap = payloadBits s.params
  · rw [phaseAt_eq_encodingReset_iff.2 hend]
    simp [hend, encodeReset]
  · have hbytes : s.phase = .encodingBytes := by
      rw [hinv.phase_eq hbusy, phaseAt_eq_encodingBytes_iff]
      omega
    have hleft : s.bitpos + cap < payloadBits s.params := by omega
    rw [phaseAt_eq_encodingBytes_iff.2 hend, if_pos hleft, ← hbytes]

/-- With no more words left than the capacity, ENCODE emits all of them and the frame is complete (R156). -/
theorem BlockInv.encodeEffect_of_le {s : State} (hinv : BlockInv s) (hbusy : s.busy = true) {cap : Nat}
    (h : (remaining s).length ≤ cap) :
    encodeEffect cap s = respond ⟨remaining s, .complete⟩ { encoderStart s with busy := false } := by
  have hcursor := hinv.cursor
  rw [length_remaining hbusy hcursor] at h
  have hend : s.bitpos + (payloadBits s.params - s.bitpos) = payloadBits s.params := by omega
  have hroom : payloadBits s.params - s.bitpos < cap := by omega
  rw [hinv.encodeEffect_eq_encodeBytes hbusy, encodeBytes_eq, Nat.min_eq_right hroom.le, hend, encodeAfterLoop,
    if_neg (lt_irrefl _), encodeReset, if_pos (by simpa using hroom), remaining_of_busy hbusy hcursor]
  rfl

/-- Settles O48: the two closed forms of ENCODE in flight. -/
theorem encodeEmitsNextWords : Obligations.EncodeEmitsNextWords := fun _ _ hinv hbusy =>
  ⟨fun h => congrArg Host.Outcome.next (hinv.encodeEffect_of_lt hbusy h),
    fun h => congrArg Host.Outcome.next (hinv.encodeEffect_of_le hbusy h)⟩

/-! ## How many words a response has (R158) -/

/-- The counts of R158 for a response to a request of capacity `cap`, where `wr` is the reset word. -/
def Counted (cap : Nat) (wr : SymbolWord) (r : Response) : Prop :=
  (r.flag = .full → r.words.length = cap) ∧
  (r.flag = .complete → 1 ≤ r.words.length ∧ r.words.length ≤ cap ∧ r.words.getLast? = some wr) ∧
  (r.flag = .idle → r.words = [])

theorem counted_full {cap : Nat} {wr : SymbolWord} {ws : List SymbolWord} :
    Counted cap wr ⟨ws, .full⟩ ↔ ws.length = cap := by simp [Counted]

theorem counted_complete {cap : Nat} {wr : SymbolWord} {ws : List SymbolWord} :
    Counted cap wr ⟨ws ++ [wr], .complete⟩ ↔ ws.length < cap := by simp [Counted]

theorem counted_idle (cap : Nat) (wr : SymbolWord) : Counted cap wr ⟨[], .idle⟩ := by simp [Counted]

theorem encodeReset_counted {cap : Nat} {out : List SymbolWord} (h : out.length ≤ cap) (s : State) :
    ∃ r, (encodeReset cap out s).trace = s.trace ++ [.response r] ∧ Counted cap s.tick.wr r := by
  rcases encodeReset_cases cap out s with ⟨hroom, he⟩ | ⟨hfull, he⟩
  · exact ⟨⟨out ++ [s.tick.wr], .complete⟩, by simp [he], counted_complete.2 hroom⟩
  · exact ⟨⟨out, .full⟩, by simp [he], counted_full.2 (h.antisymm hfull)⟩

theorem encodeBytes_counted (cap : Nat) (s : State) :
    ∃ r, (encodeBytes cap s).trace = s.trace ++ [.response r] ∧ Counted cap s.tick.wr r := by
  rw [encodeBytes_eq, encodeAfterLoop]
  split
  case isTrue hleft =>
    have hall : min cap (payloadBits s.params - s.bitpos) = cap := by simp only at hleft; omega
    exact ⟨_, rfl, counted_full.2 (by simpa using hall)⟩
  case isFalse => exact encodeReset_counted (by simp) _

/-- Settles O49: the counts of each phase, and no word when idle. -/
theorem responseWordCounts : Obligations.ResponseWordCounts := by
  intro cap s
  suffices h : ∃ r, (encodeEffect cap s).trace = s.trace ++ [.response r] ∧ Counted cap s.tick.wr r by
    obtain ⟨r, htrace, hcounted⟩ := h
    exact ⟨encodeEffect cap s, r, rfl, htrace, hcounted⟩
  rw [encodeEffect]
  split
  · split
    · exact encodeBytes_counted cap s
    · exact encodeReset_counted (Nat.zero_le cap) s
  · exact ⟨⟨[], .idle⟩, rfl, counted_idle cap s.tick.wr⟩

/-! ## Runs of ENCODE (R163) -/

/-- ENCODE uses up the words that it emits, whether a frame is in flight or not. -/
theorem BlockInv.remaining_encodeEffect {s : State} (hinv : BlockInv s) (cap : Nat) :
    remaining (encodeEffect cap s) = (remaining s).drop cap := by
  cases hbusy : s.busy with
  | false =>
    rw [encodeEffect_of_idle cap hbusy, remaining_of_idle hbusy, List.drop_nil]
    exact remaining_of_idle hbusy
  | true =>
    rcases lt_or_ge cap (remaining s).length with h | h
    · rw [hinv.encodeEffect_of_lt hbusy h, remaining, remaining, if_pos hbusy, List.drop_drop]
      exact if_pos hbusy
    · rw [hinv.encodeEffect_of_le hbusy h, List.drop_of_length_le h]
      exact remaining_of_idle rfl

/-- A response is no part of the invariant. -/
theorem BlockInv.after_response {s : State} (hinv : BlockInv s) (r : Response) : BlockInv (respond r s) :=
  { hinv with }

/-- ENCODE keeps the invariant. -/
theorem BlockInv.after_encode {s : State} (hinv : BlockInv s) (cap : Nat) : BlockInv (encodeEffect cap s) := by
  cases hbusy : s.busy with
  | false =>
    rw [encodeEffect_of_idle cap hbusy]
    exact hinv.after_response _
  | true =>
    rcases lt_or_ge cap (remaining s).length with h | h
    · rw [hinv.encodeEffect_of_lt hbusy h]
      have hcursor := hinv.cursor
      rw [length_remaining hbusy hcursor] at h
      have hplace : s.bitpos + cap ≤ payloadBits s.params := by omega
      refine BlockInv.after_response ?_ _
      exact { hinv with
        cursor := hplace
        atReset := phaseAt_eq_encodingReset_iff.1
        idle := by simp [hbusy]
        inPayload := fun _ hphase => hplace.lt_of_ne (phaseAt_eq_encodingBytes_iff.1 hphase) }
    · rw [hinv.encodeEffect_of_le hbusy h]
      refine BlockInv.after_response ?_ _
      exact { hinv with
        cursor := Nat.zero_le _
        atReset := by simp
        idle := by simp
        inPayload := by simp
        uninitialised := fun hi => ⟨rfl, (hinv.uninitialised hi).2⟩ }

/-- As many requests of at least one word as there are words left complete the frame. -/
theorem encodeRun_idle_of_le {caps : List Nat} (hcaps : ∀ c ∈ caps, 1 ≤ c) {s : State} (hinv : BlockInv s)
    (h : (remaining s).length ≤ caps.length) : (encodeRun caps s).busy = false := by
  induction caps generalizing s with
  | nil =>
    refine Bool.eq_false_of_not_eq_true fun hbusy : s.busy = true => ?_
    have hleft := length_remaining hbusy hinv.cursor
    rw [List.length_nil] at h
    omega
  | cons c caps ih =>
    have hc : 1 ≤ c := hcaps c List.mem_cons_self
    rw [encodeRun_cons]
    refine ih (fun d hd => hcaps d (List.mem_cons_of_mem c hd)) (hinv.after_encode c) ?_
    rw [hinv.remaining_encodeEffect, List.length_drop]
    rw [List.length_cons] at h
    omega

/-- Settles O54: a request emits the next words or all of them, and each of a run uses up at least one. -/
theorem encodeMakesProgress : Obligations.EncodeMakesProgress := by
  refine fun s hinv hbusy => ⟨fun cap hcap => ?progress, fun caps hcaps hlen => ?completes⟩
  case progress =>
    have hne : remaining s ≠ [] := by simp [remaining_of_busy hbusy hinv.cursor]
    rcases lt_or_ge cap (remaining s).length with h | h
    · refine ⟨_, _, congrArg Host.Outcome.next (hinv.encodeEffect_of_lt hbusy h), rfl, ?_,
        .inl (Nat.lt_add_of_pos_right hcap)⟩
      simpa [hne] using Nat.one_le_iff_ne_zero.1 hcap
    · exact ⟨_, _, congrArg Host.Outcome.next (hinv.encodeEffect_of_le hbusy h), rfl, hne, .inr ⟨rfl, rfl⟩⟩
  case completes => exact encodeRun_idle_of_le hcaps hinv ((length_remaining_le s).trans hlen)

/-! ## ABORT (R165 to R167) -/

/-- Settles O55: ABORT leaves no frame in flight, and an idle block in the invariant is at its start already. -/
theorem abortEndsFrame : Obligations.AbortEndsFrame := by
  refine fun s => ⟨fun hinit => ?notInit, fun hinit => ⟨abortEffect s, ?ok, rfl, rfl,
    fun cap => encodeWhileIdleReturnsIdle cap _ rfl, fun hinv hidle => ?idle⟩, rfl⟩
  case notInit => rw [exec_eq, effect, requireInit_of_not_init hinit, finish]
  case ok => rw [exec_eq, effect, requireInit_of_init hinit]
  case idle =>
    obtain ⟨hphase, hbitpos⟩ := hinv.idle hidle
    simp [abortEffect, encoderStart, finish, ← hphase, ← hbitpos, ← hidle]

end Sys2Proof.Machine
end

section
/-! The timing profiles (`43_timing_profile.md`): ticks as a floor, what INIT does by the outcome of its checks, and that
no step but reset writes the latched profile afterwards. -/

namespace Sys2Proof.Machine

/-! ## Ticks (R184) -/

theorem ticks_eq_floor (p : Params) (t : Nat) : (ticks p t : ℤ) = ⌊(t : ℚ) * p.clkHz / 1000000000⌋ := by
  have hquotient : (t : ℚ) * p.clkHz / 1000000000 = (t * p.clkHz : Nat) / (1000000000 : Nat) := by push_cast; rfl
  rw [hquotient, Rat.floor_natCast_div_natCast, ticks, Int.natCast_ediv]

/-- Settles O25: the floor is `ticks_eq_floor`, and each example is its quotient at the rule's clock. -/
theorem ticksAreTruncatedExactly : Obligations.TicksAreTruncatedExactly :=
  ⟨ticks_eq_floor, fun p => ⟨fun hclk => by simp [ticks, hclk], fun hclk => by simp [ticks, hclk]⟩⟩

/-! ## INIT by the outcome of its checks (R190) -/

theorem profileOk_iff_forall_mem {p : Params} {n : Nat} :
    ProfileOk p n ↔ ∀ d ∈ [ticks p (profile p n).t0h, ticks p (profile p n).t0l, ticks p (profile p n).t1h,
      ticks p (profile p n).t1l, halfGap p n], DurationOk p d := by simp [ProfileOk]

/-- Each of the checks before the draw, if it fails, leaves all but RESULT. -/
theorem initEffect_of_rejected {n : Nat} {s : State}
    (h : s.init = true ∨ numProfiles s.params ≤ n ∨ ¬ProfileOk s.params n) : initEffect n s = finish .initError s := by
  rcases h with hinit | hn | hok
  · rw [initEffect, if_pos hinit]
  · rw [initEffect, if_pos hn, ite_self]
  · rw [initEffect, if_neg hok, ite_self, ite_self]

/-- When the checks before the draw pass, the draw decides. -/
theorem initEffect_of_accepted {n : Nat} {s : State} (hinit : s.init = false) (hn : n < numProfiles s.params)
    (hok : ProfileOk s.params n) : initEffect n s = initDraw n s := by
  rw [initEffect, if_neg (Bool.eq_false_iff.1 hinit), if_neg (not_le.2 hn), if_pos hok]

/-- Settles O24: a check that fails, the two answers of the draw, and the word of INIT by its fields. -/
theorem initSelectsProfile : Obligations.InitSelectsProfile := by
  intro n s pr tk ok e
  have hchecks : ok ↔ ProfileOk s.params n := profileOk_iff_forall_mem.symm
  rw [hchecks, exec_eq, effect]
  refine ⟨fun hrejected => ?rejected, fun hinit hn hok hdraw => ?refused, fun hinit hn hok hdraw => ?latched,
    decodeCmd_ofNat (by decide)⟩
  case rejected => rw [initEffect_of_rejected hrejected, finish]
  case refused =>
    rw [initEffect_of_accepted hinit hn hok, initDraw, if_neg (Bool.eq_false_iff.1 hdraw)]
    rfl
  case latched =>
    rw [initEffect_of_accepted hinit hn hok, initDraw, if_pos hdraw]
    rfl

/-! ## What no step writes (R75, R192) -/

theorem requireInit_params {k : State → State} {s : State} (h : (k s).params = s.params) :
    (requireInit k s).params = s.params := by
  rcases requireInit_cases k s with ⟨-, hr⟩ | ⟨-, hr⟩ <;> simp [hr, h]

theorem frameEffect_params {fill : State → State} (hfill : ∀ s, (fill s).params = s.params) (s : State) :
    (frameEffect fill s).params = s.params := by
  rcases frameEffect_cases fill s with ⟨-, h⟩ | ⟨-, -, h⟩ | ⟨-, -, h⟩ <;> simp [h, hfill]

/-- No instruction writes a parameter. -/
theorem effect_params (i : Instr) (s : State) : (effect i s).params = s.params := by
  cases i with
  | init n => rcases initEffect_cases n s with h | ⟨-, -, -, -, h⟩ | ⟨-, -, -, -, h⟩ <;> simp [effect, h]
  | setPixel b =>
    apply requireInit_params
    rcases setPixelEffect_cases b s with ⟨-, h⟩ | ⟨-, h⟩ <;> simp [h]
  | modBright b =>
    apply requireInit_params
    rcases modBrightEffect_cases b s with ⟨-, h⟩ | ⟨-, h⟩ <;> simp [h]
  | transmit => exact requireInit_params (frameEffect_params pack_params s)
  | wipe => exact requireInit_params (frameEffect_params blank_params s)
  | abort => exact requireInit_params rfl
  | encode cap => rcases encodeEffect_cases cap s with ⟨-, h⟩ | ⟨-, ⟨ws, h⟩ | ⟨ws, k, ph, h⟩⟩ <;> simp [effect, h]

/-- In an initialised block no instruction writes `Init`, `Sel` or `Tick`, as INIT fails there. -/
theorem effect_profile_of_init {s : State} (hinit : s.init = true) (i : Instr) :
    (effect i s).init = s.init ∧ (effect i s).sel = s.sel ∧ (effect i s).tick = s.tick := by
  by_cases hi : ∃ n, i = .init n
  · obtain ⟨n, rfl⟩ := hi
    simp [effect, initEffect_of_rejected (.inl hinit)]
  · exact effect_profile (fun n hn => hi ⟨n, hn⟩) s

theorem PlainStep.params {s t : State} (h : PlainStep s t) : t.params = s.params := by
  rcases h with rfl | ⟨r, rfl⟩ | ⟨v, rfl⟩ | ⟨v, rfl⟩ | ⟨v, rfl⟩ | ⟨v, rfl⟩ | rfl <;> simp

/-- Everything a step can do, from any state: wait, or serve the oldest input. -/
theorem step_cases {s t : State} (h : step s = .next t) :
    t = s ∨ ∃ x rest, s.inputs = x :: rest ∧ step (push x { s with inputs := rest }) = .next t := by
  cases hinputs : s.inputs with
  | nil =>
    rw [step_idle hinputs, Host.Outcome.next.injEq] at h
    exact .inl h.symm
  | cons x rest =>
    rw [step_serve hinputs] at h
    exact .inr ⟨x, rest, rfl, h⟩

/-- Settles O17: no kind of step writes a parameter, and of those that are no reset, in an initialised block, none writes
`Init`, `Sel` or `Tick`. -/
theorem profileNeverChangesAfterInit : Obligations.ProfileNeverChangesAfterInit := by
  intro s t h
  rcases step_cases h with rfl | ⟨x, rest, hinputs, h⟩
  · exact ⟨rfl, fun hinit _ => ⟨hinit, rfl, rfl⟩⟩
  rcases step_push_cases h with ⟨i, -, -, rfl⟩ | ⟨-, -, hplain⟩ | ⟨rfl, rfl⟩
  · refine ⟨effect_params i _, fun hinit _ => ?_⟩
    obtain ⟨hi, hsel, htick⟩ := effect_profile_of_init (s := { s with inputs := rest }) hinit i
    exact ⟨hi.trans hinit, hsel, htick⟩
  · refine ⟨hplain.params, fun hinit _ => ?_⟩
    obtain ⟨hi, hsel, htick, -⟩ := hplain.flags
    exact ⟨hi.trans hinit, hsel, htick⟩
  · exact ⟨rfl, fun _ hreset => absurd (congrArg List.head? hinputs) hreset⟩

end Sys2Proof.Machine
end

section
/-! Frame control (`44_frame_control.md`): TRANSMIT and WIPE are one frame start, of a fill of the transmit buffer; what
it does by `Init`, `Busy` and the draw, and what the buffer and the pixels read as when the frame is accepted. -/

namespace Sys2Proof.Machine

/-- The state at the start of an accepted frame (R200, R201, R205): the draw is taken, the buffer is filled, and the
encoder is at the first bit. -/
def acceptedFrame (fill : State → State) (s : State) : State :=
  finish .ok (startFrame (fill (takeChanAccept s)))

/-! ## A frame start by `Busy` and the draw -/

theorem frameEffect_of_busy (fill : State → State) {s : State} (hbusy : s.busy = true) :
    frameEffect fill s = finish .transmitError s := if_pos hbusy

theorem frameEffect_of_idle (fill : State → State) {s : State} (hidle : s.busy = false) :
    frameEffect fill s =
      if chanAcceptAnswer s.env then acceptedFrame fill s else finish .transmitError (takeChanAccept s) :=
  if_neg (Bool.eq_false_iff.1 hidle)

/-! ## An instruction that starts a frame -/

section
variable {i : Instr} {fill : State → State} {s : State}
  (hexec : exec i s = .next (requireInit (frameEffect fill) s))
include hexec

theorem exec_frame_of_not_init (hinit : s.init = false) : exec i s = .next { s with result := .notInit } := by
  rw [hexec, requireInit_of_not_init hinit, finish]

theorem exec_frame_of_busy (hinit : s.init = true) (hbusy : s.busy = true) :
    exec i s = .next { s with result := .transmitError } := by
  rw [hexec, requireInit_of_init hinit, frameEffect_of_busy fill hbusy, finish]

theorem exec_frame_of_refused (hinit : s.init = true) (hidle : s.busy = false)
    (hdraw : chanAcceptAnswer s.env = false) : exec i s = .next (finish .transmitError (takeChanAccept s)) := by
  rw [hexec, requireInit_of_init hinit, frameEffect_of_idle fill hidle, if_neg (Bool.eq_false_iff.1 hdraw)]

theorem exec_frame_of_accepted (hinit : s.init = true) (hidle : s.busy = false)
    (hdraw : chanAcceptAnswer s.env = true) : exec i s = .next (acceptedFrame fill s) := by
  rw [hexec, requireInit_of_init hinit, frameEffect_of_idle fill hidle, if_pos hdraw]

end

/-! ## TRANSMIT (R201) -/

theorem exec_transmit (s : State) : exec .transmit s = .next (requireInit (frameEffect pack) s) := rfl

/-- The draw does not show in the packed bytes. -/
@[simp] theorem getTx_acceptedFrame_pack (s : State) (k : Nat) :
    getTx (acceptedFrame pack s) k = getTx (pack s) k := rfl

/-- A pack writes no byte beyond the last pixel's. -/
theorem getTx_pack_of_le {s : State} {k : Nat} (hk : 3 * s.params.ledCount ≤ k) : getTx (pack s) k = 0#8 := by
  have hbyte : ¬k < nBytes s.params := by rw [nBytes, Config.bpp]; omega
  rw [getTx_pack, if_neg hbyte]

/-- Settles O38: the frame start whose fill is a pack, with the packed bytes by their pixel and place. -/
theorem transmitPacksAndStarts : Obligations.TransmitPacksAndStarts := by
  intro s o e
  have hexec := exec_transmit s
  refine ⟨exec_frame_of_not_init hexec, exec_frame_of_busy hexec, exec_frame_of_refused hexec,
    fun hinit hidle hdraw => ⟨acceptedFrame pack s, exec_frame_of_accepted hexec hinit hidle hdraw, rfl, wf_pack _,
      fun i hi j hj => ?packed, fun k hk => ?beyond⟩, rfl⟩
  case packed => rw [getTx_acceptedFrame_pack, getTx_pack_three_mul_add hi hj]
  case beyond => rw [getTx_acceptedFrame_pack, getTx_pack_of_le hk]

/-! ## WIPE (R205) -/

theorem exec_wipe (s : State) : exec .wipe s = .next (requireInit (frameEffect blank) s) := rfl

/-- The draw does not show in the blanked pixels. -/
@[simp] theorem getPix_acceptedFrame_blank (s : State) (i : Nat) :
    getPix (acceptedFrame blank s) i = getPix (blank s) i := rfl

theorem acceptedFrame_blank_txBuf_nil (s : State) : (acceptedFrame blank s).txBuf = [] :=
  blank_txBuf_nil (takeChanAccept s)

/-- Settles O41: the frame start whose fill is a blank, with the blanked pixels and an empty transmit buffer. -/
theorem wipeBlanksAndStarts : Obligations.WipeBlanksAndStarts := by
  intro s e
  have hexec := exec_wipe s
  refine ⟨exec_frame_of_not_init hexec, exec_frame_of_busy hexec, exec_frame_of_refused hexec,
    fun hinit hidle hdraw => ⟨acceptedFrame blank s, exec_frame_of_accepted hexec hinit hidle hdraw, rfl,
      fun i hi => ?blanked, fun k => ?zero⟩, rfl⟩
  case blanked => rw [getPix_acceptedFrame_blank, getPix_blank, if_pos hi]
  case zero => rw [getTx_nil (acceptedFrame_blank_txBuf_nil s)]

end Sys2Proof.Machine
end

section
/-! Errors and the order of checks (`60_exceptions.md`): the RESULT that each instruction leaves, its checks taken in the
order of its pseudocode, and from that the order of the checks of a command word. -/

namespace Sys2Proof

/-- A word whose fields pass the checks of R85 to R87 decodes to an instruction. -/
theorem decodeCmd_ok_of_legal_fields {v : Word} (hrsv : rsvField v = 0) (h1 : 1 ≤ opField v) (h7 : opField v < 7)
    (himm : 4 ≤ opField v → immField v = 0) : ∃ i, decodeCmd v = .ok i := by
  by_cases h3 : opField v ≤ 3
  · exact decodeCmd_ok_of_opField hrsv h1 h3
  replace himm := himm (by omega)
  simp only [decodeCmd_ok_iff]
  obtain hop | hop | hop : opField v = 4 ∨ opField v = 5 ∨ opField v = 6 := by omega
  · exact ⟨.transmit, hrsv, hop, himm⟩
  · exact ⟨.wipe, hrsv, hop, himm⟩
  · exact ⟨.abort, hrsv, hop, himm⟩

end Sys2Proof

namespace Sys2Proof.Machine

/-! ## The RESULT of each instruction (R221, R225 steps 4 and 5) -/

/-- The check of `Init` comes before the command's own. -/
theorem requireInit_result (k : State → State) (s : State) :
    (requireInit k s).result = if s.init = false then .notInit else (k s).result := by
  rcases requireInit_cases k s with ⟨hinit, h⟩ | ⟨hinit, h⟩ <;> simp [hinit, h]

theorem initDraw_result (n : Nat) (s : State) :
    (initDraw n s).result = if chanOkAnswer s.env = false then .initError else .ok := by
  cases hdraw : chanOkAnswer s.env <;> simp [initDraw, hdraw]

theorem initEffect_result (n : Nat) (s : State) :
    (initEffect n s).result =
      if s.init = true then .initError
      else if numProfiles s.params ≤ n then .initError
      else if ¬ProfileOk s.params n then .initError
      else if chanOkAnswer s.env = false then .initError
      else .ok := by
  rw [← ite_or, ← ite_or]
  split
  next hrejected => rw [initEffect_of_rejected (or_assoc.1 hrejected), finish_result]
  next haccepted =>
    simp only [not_or, not_not, not_le, Bool.not_eq_true] at haccepted
    obtain ⟨⟨hinit, hn⟩, hok⟩ := haccepted
    rw [initEffect_of_accepted hinit hn hok, initDraw_result]

theorem storePixel_result (q : Proportion) (n : Nat) (s : State) :
    (storePixel q n s).result = if s.params.ledCount ≤ s.idx.toNat then .indexError else .ok := by
  rw [storePixel, apply_ite State.result, finish_result, finish_result]

theorem setPixelEffect_result (n : Nat) (s : State) :
    (setPixelEffect n s).result = if s.params.ledCount ≤ s.idx.toNat then .indexError else .ok :=
  storePixel_result _ n s

theorem modBrightEffect_result (n : Nat) (s : State) :
    (modBrightEffect n s).result = if s.params.ledCount ≤ s.idx.toNat then .indexError else .ok :=
  storePixel_result _ n s

theorem frameEffect_result (fill : State → State) (s : State) :
    (frameEffect fill s).result =
      if s.busy = true then .transmitError
      else if chanAcceptAnswer s.env = false then .transmitError
      else .ok := by
  rcases frameEffect_cases fill s with ⟨hbusy, h⟩ | ⟨hidle, hdraw, h⟩ | ⟨hidle, hdraw, h⟩
  · simp [h, hbusy]
  · simp [h, hidle, hdraw]
  · simp [h, hidle, hdraw]

@[simp] theorem abortEffect_result (s : State) : (abortEffect s).result = .ok := rfl

/-! ## The order of the checks (R225) -/

/-- Settles O19: steps 1 to 3 say which words are ILLEGAL, and a word that passes them runs an instruction whose
RESULT is that of the first of its own checks to fail. -/
theorem checkPriority : Obligations.CheckPriority := by
  intro v s
  rw [← rsvField_eq, ← opField_eq, ← immField_eq, ← ite_or, ← ite_or]
  split
  next hillegal =>
    refine ⟨_, step_push_cmd_illegal (fun i hi => ?_) s, rfl⟩
    obtain ⟨hrsv, hop1, hop7, himm⟩ := legal_fields_of_decodeCmd_ok hi
    omega
  next hlegal =>
    obtain ⟨i, hi⟩ := decodeCmd_ok_of_legal_fields (v := v) (by omega) (by omega) (by omega) (by omega)
    refine ⟨effect i s, (step_push_cmd v s).trans (command_ok hi s), ?_⟩
    obtain ⟨-, hfor⟩ := decodeCmd_ok_iff.1 hi
    cases i with
    | init n => obtain ⟨hop, himm⟩ := hfor; simp [hop, himm, effect, initEffect_result]
    | setPixel n => obtain ⟨hop, -⟩ := hfor; simp [hop, effect, requireInit_result, setPixelEffect_result]
    | modBright n => obtain ⟨hop, -⟩ := hfor; simp [hop, effect, requireInit_result, modBrightEffect_result]
    | transmit | wipe => obtain ⟨hop, -⟩ := hfor; simp [hop, effect, requireInit_result, frameEffect_result]
    | abort => obtain ⟨hop, -⟩ := hfor; simp [hop, effect, requireInit_result]
    | encode cap => exact hfor.elim

end Sys2Proof.Machine
end

section
/-! The invariant (`10_state.md`, R32): each state change that a step is made of keeps it, and so every step does. -/

namespace Sys2Proof.Machine

/-! ## The shared operations -/

/-- A result is no part of the invariant. -/
theorem BlockInv.after_finish {s : State} (hinv : BlockInv s) (c : ResultCode) : BlockInv (finish c s) := { hinv with }

/-- The environment's answers are no part of the invariant. -/
theorem BlockInv.after_takeChanOk {s : State} (hinv : BlockInv s) : BlockInv (takeChanOk s) := { hinv with }

theorem BlockInv.after_takeChanAccept {s : State} (hinv : BlockInv s) : BlockInv (takeChanAccept s) := { hinv with }

/-- The pending inputs are no part of the invariant. -/
theorem BlockInv.with_inputs {s : State} (hinv : BlockInv s) (rest : List Input) :
    BlockInv { s with inputs := rest } := { hinv with }

theorem BlockInv.after_requireInit {k : State → State} {s : State} (hinv : BlockInv s)
    (hk : s.init = true → BlockInv (k s)) : BlockInv (requireInit k s) := by
  rcases requireInit_cases k s with ⟨-, h⟩ | ⟨hinit, h⟩
  · rw [h]
    exact hinv.after_finish _
  · rw [h]
    exact hk hinit

/-- A reset block meets the invariant if its parameters are legal (R250). -/
theorem blockInv_resetBlock {s : State} (hlegal : s.params.Legal) : BlockInv (resetBlock s) where
  legal := hlegal
  pixForm := Sparse.wf_nil
  pixRange := List.forall_mem_nil _
  pixCanonical := List.forall_mem_nil _
  txForm := Sparse.wf_nil
  txRange := List.forall_mem_nil _
  cursor := Nat.zero_le _
  atReset := fun h => Phase.noConfusion h
  idle := fun _ => ⟨rfl, rfl⟩
  inPayload := fun h => Bool.noConfusion h
  uninitialised := fun _ => ⟨rfl, rfl, rfl⟩
  latched := fun h => Bool.noConfusion h

/-! ## The instructions -/

/-- Latching a checked profile while the block waits for INIT (R190). -/
theorem BlockInv.after_latchProfile {s : State} (hinv : BlockInv s) {n : Nat} (hn : n < numProfiles s.params)
    (hok : ProfileOk s.params n) : BlockInv (latchProfile n s) :=
  { hinv with
    uninitialised := fun h => Bool.noConfusion h
    latched := fun _ => ⟨hn, hok, rfl⟩ }

theorem BlockInv.after_init {s : State} (hinv : BlockInv s) (n : Nat) : BlockInv (initEffect n s) := by
  rcases initEffect_cases n s with h | ⟨-, hn, hok, -, h⟩ | ⟨-, -, -, -, h⟩
  · rw [h]
    exact hinv.after_finish _
  · rw [h]
    exact (hinv.after_takeChanOk.after_latchProfile hn hok).after_finish _
  · rw [h]
    exact hinv.after_takeChanOk.after_finish _

/-- Every pixel's stored proportions are canonical, listed or not. -/
theorem BlockInv.canonical_getPix {s : State} (hinv : BlockInv s) (i : Nat) :
    CanonicalProportion (getPix s i).prop := by
  by_cases hlisted : ∃ c ∈ s.pix, c.1 = i
  · obtain ⟨c, hc, rfl⟩ := hlisted
    obtain ⟨hsorted, -⟩ := hinv.pixForm
    rw [getPix, Sparse.get_of_mem hsorted hc]
    exact hinv.pixCanonical c hc
  · rw [getPix, Sparse.get_of_not_listed fun c hc he => hlisted ⟨c, hc, he⟩]
    decide

/-- Writing canonical proportions to a pixel in range. -/
theorem BlockInv.after_setPix {s : State} (hinv : BlockInv s) {i : Nat} {p : Pixel} (hi : i < s.params.ledCount)
    (hp : CanonicalProportion p.prop) : BlockInv (setPix i p s) :=
  { hinv with
    pixForm := wf_setPix hinv.pixForm i p
    pixRange := fun c hc => by
      rcases Sparse.mem_set hc with hc | ⟨rfl, -⟩
      · exact hinv.pixRange c hc
      · exact hi
    pixCanonical := fun c hc => by
      rcases Sparse.mem_set hc with hc | ⟨rfl, -⟩
      · exact hinv.pixCanonical c hc
      · exact hp }

theorem canonical_propOperand (s : State) : CanonicalProportion (propOperand s) :=
  ⟨clampProp_canonical _, clampProp_canonical _, clampProp_canonical _⟩

/-- Both pixel commands, by the proportions they store (R131, R135). -/
theorem BlockInv.after_storePixel {s : State} (hinv : BlockInv s) {q : Proportion} (hq : CanonicalProportion q)
    (n : Nat) : BlockInv (storePixel q n s) := by
  rcases le_or_gt s.params.ledCount s.idx.toNat with hidx | hidx
  · rw [storePixel_of_le hidx]
    exact hinv.after_finish _
  · rw [storePixel_of_lt hidx]
    exact (hinv.after_setPix hidx hq).after_finish _

theorem BlockInv.after_pack {s : State} (hinv : BlockInv s) : BlockInv (pack s) :=
  { hinv with
    txForm := wf_pack s
    txRange := fun _ hc => (Sparse.mem_tabulate hc).1 }

theorem BlockInv.after_blank {s : State} (hinv : BlockInv s) : BlockInv (blank s) :=
  { hinv with
    pixForm := wf_blank_pix s
    pixRange := fun _ hc => (Sparse.mem_tabulate hc).1
    pixCanonical := fun c hc => by
      obtain ⟨-, hentry, -⟩ := Sparse.mem_tabulate hc
      rw [hentry]
      exact hinv.canonical_getPix c.1
    txForm := wf_blank_tx s
    txRange := fun _ hc => (Sparse.mem_tabulate hc).1 }

/-- A frame that starts has its first payload bit to send, as there is at least one pixel (R7, R200). -/
theorem BlockInv.after_startFrame {s : State} (hinv : BlockInv s) (hinit : s.init = true) :
    BlockInv (startFrame s) := by
  obtain ⟨⟨hleds, -⟩, -⟩ := hinv.legal
  have hpayload : 0 < payloadBits s.params := by rw [payloadBits_eq]; omega
  exact { hinv with
    cursor := Nat.zero_le _
    atReset := fun h => Phase.noConfusion h
    idle := fun h => Bool.noConfusion h
    inPayload := fun _ _ => hpayload
    uninitialised := fun h => absurd (h.symm.trans hinit) Bool.false_ne_true }

/-- TRANSMIT and WIPE, by what their fill of the transmit buffer keeps. -/
theorem BlockInv.after_frame {fill : State → State} (hfill : ∀ {s}, BlockInv s → BlockInv (fill s))
    (hfillInit : ∀ s, (fill s).init = s.init) {s : State} (hinv : BlockInv s) (hinit : s.init = true) :
    BlockInv (frameEffect fill s) := by
  rcases frameEffect_cases fill s with ⟨-, h⟩ | ⟨-, -, h⟩ | ⟨-, -, h⟩
  · rw [h]
    exact hinv.after_finish _
  · rw [h]
    exact ((hfill hinv.after_takeChanAccept).after_startFrame ((hfillInit _).trans hinit)).after_finish _
  · rw [h]
    exact hinv.after_takeChanAccept.after_finish _

theorem BlockInv.after_abort {s : State} (hinv : BlockInv s) : BlockInv (abortEffect s) :=
  { hinv with
    cursor := Nat.zero_le _
    atReset := fun h => Phase.noConfusion h
    idle := fun _ => ⟨rfl, rfl⟩
    inPayload := fun h => Bool.noConfusion h
    uninitialised := fun h => ⟨rfl, (hinv.uninitialised h).2⟩ }

/-- Every instruction keeps the invariant. -/
theorem BlockInv.after_effect {s : State} (hinv : BlockInv s) (i : Instr) : BlockInv (effect i s) := by
  cases i with
  | init n => exact hinv.after_init n
  | setPixel n => exact hinv.after_requireInit fun _ => hinv.after_storePixel (canonical_propOperand s) n
  | modBright n => exact hinv.after_requireInit fun _ => hinv.after_storePixel (hinv.canonical_getPix _) n
  | transmit => exact hinv.after_requireInit (hinv.after_frame BlockInv.after_pack pack_init)
  | wipe => exact hinv.after_requireInit (hinv.after_frame BlockInv.after_blank blank_init)
  | abort => exact hinv.after_requireInit fun _ => hinv.after_abort
  | encode cap => exact hinv.after_encode cap

/-! ## The steps -/

/-- The trace and the operand registers are no part of the invariant. -/
theorem BlockInv.after_plainStep {s t : State} (hinv : BlockInv s) (h : PlainStep s t) : BlockInv t := by
  rcases h with rfl | ⟨r, rfl⟩ | ⟨v, rfl⟩ | ⟨v, rfl⟩ | ⟨v, rfl⟩ | ⟨v, rfl⟩ | rfl
  · exact hinv
  all_goals exact { hinv with }

/-- Serving an input keeps the invariant. -/
theorem BlockInv.after_serve {s t : State} (hinv : BlockInv s) {x : Input} (h : serve x s = .next t) : BlockInv t := by
  rcases serve_cases h with ⟨-, hplain⟩ | ⟨i, -, rfl⟩ | ⟨-, rfl⟩
  · exact hinv.after_plainStep hplain
  · exact hinv.after_effect i
  · exact blockInv_resetBlock hinv.legal

/-- The invariant holds all along an execution that starts in it. -/
theorem Execution.blockInv {a : Nat → List Input} {ex : Nat → State} (hex : Execution a ex) (hinv : BlockInv (ex 0))
    (n : Nat) : BlockInv (ex n) := by
  induction n with
  | zero => exact hinv
  | succ n ih =>
    rcases execution_cases hex n with ⟨-, hwait⟩ | ⟨x, rest, -, hserve⟩
    · rwa [hwait]
    · exact (ih.with_inputs rest).after_serve hserve

end Sys2Proof.Machine
end

section
/-! The sink's part (`70_reset_and_hazards.md`, R266): while a frame is in flight each step either cuts it off or carries
it on by the words that the step's input asks for, none for any input but an ENCODE request. Under weak fairness the
words left run out, and without requests they stay. -/

namespace Sys2Proof.Machine

/-! ## Carrying a frame on -/

/-- From `s` to `t` the frame in flight is carried on by `n` words: they have left what remains and are emitted, and if
the frame is over then a COMPLETE response has ended it. -/
structure CarriesOn (n : Nat) (s t : State) : Prop where
  left : remaining t = (remaining s).drop n
  sent : emitted t.trace = emitted s.trace ++ (remaining s).take n
  ended : t.busy = false → lastFlag t.trace = some .complete

@[simp] theorem emitted_append_singleton (tr : List Event) (e : Event) :
    emitted (tr ++ [e]) = emitted tr ++ eventWords e := by simp [emitted]

/-- Words leave what remains only to be emitted. -/
theorem CarriesOn.emitted_append_remaining {n : Nat} {s t : State} (h : CarriesOn n s t) :
    emitted t.trace ++ remaining t = emitted s.trace ++ remaining s := by
  rw [h.left, h.sent, List.append_assoc, List.take_append_drop]

theorem CarriesOn.length_remaining {n : Nat} {s t : State} (h : CarriesOn n s t) :
    (remaining t).length = (remaining s).length - n := by
  rw [h.left, List.length_drop]

/-- A frame in flight has a word left, WR if no other. -/
theorem BlockInv.remaining_ne_nil {s : State} (hinv : BlockInv s) (hbusy : s.busy = true) : remaining s ≠ [] := by
  simp [remaining_of_busy hbusy hinv.cursor]

theorem busy_of_remaining_ne_nil {s : State} (h : remaining s ≠ []) : s.busy = true :=
  Bool.eq_true_of_not_eq_false fun hidle => h (remaining_of_idle hidle)

/-- ENCODE carries the frame on by its capacity (R151). -/
theorem BlockInv.carriesOn_encode {s : State} (hinv : BlockInv s) (hbusy : s.busy = true) (cap : Nat) :
    CarriesOn cap s (encodeEffect cap s) where
  left := hinv.remaining_encodeEffect cap
  sent := by
    rcases lt_or_ge cap (remaining s).length with h | h
    · simp [hinv.encodeEffect_of_lt hbusy h, eventWords]
    · simp [hinv.encodeEffect_of_le hbusy h, eventWords, List.take_of_length_le h]
  ended := by
    rcases lt_or_ge cap (remaining s).length with h | h
    · simp [hinv.encodeEffect_of_lt hbusy h, hbusy]
    · simp [hinv.encodeEffect_of_le hbusy h]

/-! ## Leaving a frame alone -/

/-- `t` has the frame of `s`, at the same place, and nothing more is emitted. -/
structure SameFrame (s t : State) : Prop where
  params : t.params = s.params
  txBuf : t.txBuf = s.txBuf
  bitpos : t.bitpos = s.bitpos
  busy : t.busy = s.busy
  tick : t.tick = s.tick
  emitted : emitted t.trace = emitted s.trace

theorem SameFrame.refl (s : State) : SameFrame s s := ⟨rfl, rfl, rfl, rfl, rfl, rfl⟩

theorem sameFrame_finish (c : ResultCode) (s : State) : SameFrame s (finish c s) := ⟨rfl, rfl, rfl, rfl, rfl, rfl⟩

theorem sameFrame_storePixel (q : Proportion) (n : Nat) (s : State) : SameFrame s (storePixel q n s) := by
  rcases le_or_gt s.params.ledCount s.idx.toNat with hidx | hidx
  · rw [storePixel_of_le hidx]
    exact sameFrame_finish _ s
  · rw [storePixel_of_lt hidx]
    exact ⟨rfl, rfl, rfl, rfl, rfl, rfl⟩

/-- What remains is read off the parameters, the transmit buffer, the latched words, the cursor and `Busy` (R160). -/
theorem SameFrame.remaining_eq {s t : State} (h : SameFrame s t) : remaining t = remaining s := by
  have hword : bitWord t = bitWord s := by
    funext k
    rw [bitWord, bitWord, payloadBit, payloadBit, getTx, getTx, h.txBuf, h.tick]
  rw [remaining, remaining, frameStream, frameStream, payloadStream, payloadStream, hword, h.params, h.bitpos, h.busy,
    h.tick]

/-- To leave a frame in flight alone is to carry it on by no word. -/
theorem SameFrame.carriesOn {s t : State} (h : SameFrame s t) (hbusy : s.busy = true) : CarriesOn 0 s t where
  left := h.remaining_eq
  sent := by rw [h.emitted, List.take_zero, List.append_nil]
  ended := fun hidle => absurd (hidle.symm.trans (h.busy.trans hbusy)) Bool.false_ne_true

theorem PlainStep.sameFrame {s t : State} (h : PlainStep s t) : SameFrame s t := by
  rcases h with rfl | ⟨r, rfl⟩ | ⟨v, rfl⟩ | ⟨v, rfl⟩ | ⟨v, rfl⟩ | ⟨v, rfl⟩ | rfl
  · exact .refl _
  · exact ⟨rfl, rfl, rfl, rfl, rfl, by simp [eventWords]⟩
  all_goals exact ⟨rfl, rfl, rfl, rfl, rfl, rfl⟩

/-- While a frame is in flight every instruction but ABORT and ENCODE leaves it alone: INIT, TRANSMIT and WIPE fail, and
the pixel commands write only pixels (R77, R190, R201, R205). -/
theorem sameFrame_effect {s : State} (hinit : s.init = true) (hbusy : s.busy = true) {i : Instr} (habort : i ≠ .abort)
    (hencode : ∀ cap, i ≠ .encode cap) : SameFrame s (effect i s) := by
  cases i with
  | init n =>
    rw [effect, initEffect_of_rejected (.inl hinit)]
    exact sameFrame_finish _ s
  | setPixel n =>
    rw [effect, requireInit_of_init hinit]
    exact sameFrame_storePixel (propOperand s) n s
  | modBright n =>
    rw [effect, requireInit_of_init hinit]
    exact sameFrame_storePixel (storedProp s (pixelIndex s)) n s
  | transmit | wipe =>
    rw [effect, requireInit_of_init hinit, frameEffect_of_busy _ hbusy]
    exact sameFrame_finish _ s
  | abort => exact absurd rfl habort
  | encode cap => exact absurd rfl (hencode cap)

/-! ## What a served input does to the frame in flight -/

/-- How many words an input asks for: the capacity of a request, and no word otherwise. -/
def wordsAsked : Input → Nat
  | .request v => v.toNat
  | _ => 0

theorem asksForWords_iff {x : Input} : asksForWords x = true ↔ 1 ≤ wordsAsked x := by
  cases x <;> simp [asksForWords, wordsAsked]

theorem wordsAsked_of_encode {p : Params} {x : Input} {cap : Nat} (h : inputInstr p x = some (.encode cap)) :
    wordsAsked x = cap := by
  obtain ⟨v, rfl, hv⟩ := inputInstr_encode h
  exact hv

theorem wordsAsked_of_not_encode {p : Params} {x : Input} (h : ∀ cap, inputInstr p x ≠ some (.encode cap)) :
    wordsAsked x = 0 := by
  cases x with
  | request v => exact absurd rfl (h v.toNat)
  | host | bus | reset => rfl

/-- A frame is in flight only in an initialised block. -/
theorem BlockInv.init_of_busy {s : State} (hinv : BlockInv s) (hbusy : s.busy = true) : s.init = true := by
  refine Bool.eq_true_of_not_eq_false fun hinit => ?_
  obtain ⟨hidle, -⟩ := hinv.uninitialised hinit
  exact Bool.false_ne_true (hidle.symm.trans hbusy)

/-- A served input either cuts the frame in flight off or carries it on by the words it asks for. -/
theorem BlockInv.serve_in_flight {s t : State} (hinv : BlockInv s) (hbusy : s.busy = true) {x : Input}
    (h : serve x s = .next t) :
    (cutsFrame s.params x ∧ t.busy = false) ∨ CarriesOn (wordsAsked x) s t := by
  have hinit := hinv.init_of_busy hbusy
  rcases step_push_cases ((step_push x s).trans h) with ⟨i, hi, -, rfl⟩ | ⟨hnone, -, hplain⟩ | ⟨rfl, rfl⟩
  · by_cases hencode : ∃ cap, i = .encode cap
    · obtain ⟨cap, rfl⟩ := hencode
      rw [wordsAsked_of_encode hi]
      exact .inr (hinv.carriesOn_encode hbusy cap)
    · rw [not_exists] at hencode
      by_cases habort : i = .abort
      · subst habort
        refine .inl ⟨.inr hi, ?_⟩
        rw [effect, requireInit_of_init hinit]
        rfl
      · have hwords : wordsAsked x = 0 := wordsAsked_of_not_encode (p := s.params) (by simpa [hi] using hencode)
        rw [hwords]
        exact .inr ((sameFrame_effect hinit hbusy habort hencode).carriesOn hbusy)
  · have hwords : wordsAsked x = 0 := wordsAsked_of_not_encode (p := s.params) (by simp [hnone])
    rw [hwords]
    exact .inr (hplain.sameFrame.carriesOn hbusy)
  · exact .inl ⟨.inl rfl, rfl⟩

/-! ## Executions -/

/-- How many words step `n` of an execution is asked for. -/
def wordsAskedAt (a : Nat → List Input) (ex : Nat → State) (n : Nat) : Nat := ((servedAt a ex n).map wordsAsked).getD 0

theorem wordsAskedAt_pos {a : Nat → List Input} {ex : Nat → State} {n : Nat}
    (h : (servedAt a ex n).any asksForWords = true) : 1 ≤ wordsAskedAt a ex n := by
  obtain ⟨x, hx, hasks⟩ := (Option.any_eq_true _ _).1 h
  simpa [wordsAskedAt, hx] using asksForWords_iff.1 hasks

theorem wordsAskedAt_eq_zero {a : Nat → List Input} {ex : Nat → State} {n : Nat}
    (h : ∀ x, servedAt a ex n = some x → asksForWords x = false) : wordsAskedAt a ex n = 0 := by
  cases hx : servedAt a ex n with
  | none => simp [wordsAskedAt, hx]
  | some x =>
    have hasks := mt asksForWords_iff.2 (Bool.eq_false_iff.1 (h x hx))
    simpa [wordsAskedAt, hx] using hasks

section
variable {a : Nat → List Input} {ex : Nat → State} (hex : Execution a ex) (hinv : ∀ n, BlockInv (ex n))
include hex hinv

/-- Each step of an execution with a frame in flight cuts it off or carries it on by the words asked for. -/
theorem Execution.in_flight {n : Nat} (hbusy : (ex n).busy = true) :
    (∃ x, servedAt a ex n = some x ∧ cutsFrame (ex n).params x ∧ (ex (n + 1)).busy = false) ∨
    CarriesOn (wordsAskedAt a ex n) (ex n) (ex (n + 1)) := by
  rcases execution_cases hex n with ⟨hx, hwait⟩ | ⟨x, rest, hx, hserve⟩
  · rw [wordsAskedAt, hx, hwait]
    exact .inr ((SameFrame.refl _).carriesOn hbusy)
  · rcases ((hinv n).with_inputs rest).serve_in_flight hbusy hserve with ⟨hcut, hidle⟩ | hcarries
    · exact .inl ⟨x, hx, hcut, hidle⟩
    · rw [wordsAskedAt, hx]
      exact .inr ⟨hcarries.left, hcarries.sent, hcarries.ended⟩

/-- A step that does not cut the frame in flight off carries it on. -/
theorem Execution.carriesOn {n : Nat} (hbusy : (ex n).busy = true)
    (hcut : ∀ x, servedAt a ex n = some x → ¬cutsFrame (ex n).params x) :
    CarriesOn (wordsAskedAt a ex n) (ex n) (ex (n + 1)) := by
  rcases hex.in_flight hinv hbusy with ⟨x, hx, hcuts, -⟩ | hcarries
  · exact absurd hcuts (hcut x hx)
  · exact hcarries

/-- While a frame is in flight the words it has left do not become more. -/
theorem Execution.length_remaining_succ_le {n : Nat} (hbusy : (ex n).busy = true) :
    (remaining (ex (n + 1))).length ≤ (remaining (ex n)).length := by
  rcases hex.in_flight hinv hbusy with ⟨-, -, -, hidle⟩ | hcarries
  · rw [remaining_of_idle hidle]
    exact Nat.zero_le _
  · rw [hcarries.length_remaining]
    exact Nat.sub_le _ _

/-- A step that serves a request with `cap ≥ 1` uses up a word of the frame in flight (R163). -/
theorem Execution.length_remaining_succ_lt {n : Nat} (hbusy : (ex n).busy = true)
    (hasks : (servedAt a ex n).any asksForWords = true) :
    (remaining (ex (n + 1))).length < (remaining (ex n)).length := by
  have hleft : 0 < (remaining (ex n)).length := List.length_pos_iff.2 ((hinv n).remaining_ne_nil hbusy)
  rcases hex.in_flight hinv hbusy with ⟨-, -, -, hidle⟩ | hcarries
  · rwa [remaining_of_idle hidle]
  · rw [hcarries.length_remaining]
    exact Nat.sub_lt hleft (wordsAskedAt_pos hasks)

/-- No frame stays in flight for ever if the sink is fair: the words left would cease to become fewer, and the next
request with `cap ≥ 1` would use up one more. -/
theorem Execution.exists_idle (hfair : SinkFair a ex) (n : Nat) : ∃ m, n ≤ m ∧ (ex m).busy = false := by
  by_contra hnone
  have hbusy (k : Nat) : (ex (n + k)).busy = true :=
    Bool.eq_true_of_not_eq_false fun h => hnone ⟨n + k, Nat.le_add_right n k, h⟩
  have hfewer : Antitone fun k => (remaining (ex (n + k))).length :=
    antitone_nat_of_succ_le fun k => hex.length_remaining_succ_le hinv (hbusy k)
  obtain ⟨k, hconst⟩ := WellFoundedLT.antitone_chain_condition hfewer
  obtain ⟨m, hm, hasked⟩ := hfair (n + k) (hbusy k)
  obtain ⟨j, rfl⟩ := Nat.exists_eq_add_of_le hm
  rw [Nat.add_assoc] at hasked
  rcases hasked with hidle | hasks
  · exact Bool.false_ne_true (hidle.symm.trans (hbusy (k + j)))
  · have hsame : (remaining (ex (n + (k + j)))).length = (remaining (ex (n + (k + j + 1)))).length :=
      (hconst (k + j) (by omega)).symm.trans (hconst (k + j + 1) (by omega))
    exact (hex.length_remaining_succ_lt hinv (hbusy (k + j)) hasks).ne hsame.symm

/-- A frame in flight that a fair sink asks for has a first step after which it is over. -/
theorem Execution.exists_first_idle (hfair : SinkFair a ex) {n : Nat} (hbusy : (ex n).busy = true) :
    ∃ m, n < m ∧ (ex m).busy = false ∧ ∀ k, n ≤ k → k < m → (ex k).busy = true := by
  have hidle := hex.exists_idle hinv hfair n
  obtain ⟨hle, hover⟩ := Nat.find_spec hidle
  refine ⟨Nat.find hidle, hle.lt_of_ne fun he => ?_, hover, fun k hk hlt => ?_⟩
  · rw [← he, hbusy] at hover
    exact Bool.noConfusion hover
  · exact Bool.eq_true_of_not_eq_false fun h => Nat.find_min hidle hlt ⟨hk, h⟩

/-- As long as nothing cuts the frame off, what is emitted and what is left make up the same words (R72). -/
theorem Execution.emitted_append_remaining {n m : Nat} (hnm : n ≤ m)
    (hbusy : ∀ k, n ≤ k → k < m → (ex k).busy = true)
    (hcut : ∀ k, n ≤ k → k < m → ∀ x, servedAt a ex k = some x → ¬cutsFrame (ex k).params x) :
    emitted (ex m).trace ++ remaining (ex m) = emitted (ex n).trace ++ remaining (ex n) := by
  induction m, hnm using Nat.le_induction with
  | base => rfl
  | succ m hnm ih =>
    have hcarries := hex.carriesOn hinv (hbusy m hnm m.lt_succ_self) (hcut m hnm m.lt_succ_self)
    rw [hcarries.emitted_append_remaining]
    exact ih (fun k hk hlt => hbusy k hk (hlt.trans m.lt_succ_self))
      fun k hk hlt => hcut k hk (hlt.trans m.lt_succ_self)

/-- A frame that is over and was not cut off ended with COMPLETE and all its words (R156). -/
theorem Execution.completes {n m : Nat} (hnm : n < m) (hover : (ex m).busy = false)
    (hbusy : ∀ k, n ≤ k → k < m → (ex k).busy = true)
    (hcut : ∀ k, n ≤ k → k < m → ∀ x, servedAt a ex k = some x → ¬cutsFrame (ex k).params x) :
    lastFlag (ex m).trace = some .complete ∧ emitted (ex m).trace = emitted (ex n).trace ++ remaining (ex n) := by
  constructor
  · obtain ⟨l, rfl⟩ : ∃ l, m = l + 1 := Nat.exists_eq_succ_of_ne_zero (Nat.ne_zero_of_lt hnm)
    have hl : n ≤ l := Nat.le_of_lt_succ hnm
    exact (hex.carriesOn hinv (hbusy l hl l.lt_succ_self) (hcut l hl l.lt_succ_self)).ended hover
  · rw [← hex.emitted_append_remaining hinv hnm.le hbusy hcut, remaining_of_idle hover, List.append_nil]

/-- Without requests for words, and with nothing that cuts it off, a frame stays in flight where it is. -/
theorem Execution.waits {n : Nat} (hbusy : (ex n).busy = true)
    (hsilent : ∀ k, n ≤ k → ∀ x, servedAt a ex k = some x → asksForWords x = false ∧ ¬cutsFrame (ex k).params x)
    {m : Nat} (hnm : n ≤ m) : (ex m).busy = true ∧ remaining (ex m) = remaining (ex n) := by
  induction m, hnm using Nat.le_induction with
  | base => exact ⟨hbusy, rfl⟩
  | succ m hnm ih =>
    obtain ⟨hbusy', hleft⟩ := ih
    have hcarries := hex.carriesOn hinv hbusy' fun x hx => (hsilent m hnm x hx).2
    have hsame : remaining (ex (m + 1)) = remaining (ex n) := by
      rw [hcarries.left, wordsAskedAt_eq_zero fun x hx => (hsilent m hnm x hx).1, List.drop_zero, hleft]
    exact ⟨busy_of_remaining_ne_nil (hsame ▸ (hinv n).remaining_ne_nil hbusy), hsame⟩

end

/-- Settles O59: under a fair sink a frame is over after some first step, and completed if no step cut it off; without
requests it waits. -/
theorem framesCompleteUnderFairSink : Obligations.FramesCompleteUnderFairSink := by
  intro a ex hex hinv
  replace hinv := hex.blockInv hinv
  refine ⟨fun hfair n hbusy => ?_, fun n hbusy hsilent m => hex.waits hinv hbusy hsilent⟩
  obtain ⟨m, hnm, hover, hbusy'⟩ := hex.exists_first_idle hinv hfair hbusy
  exact ⟨m, hnm, hover, hbusy', hex.completes hinv hnm hover hbusy'⟩

end Sys2Proof.Machine
end

section
/-! Encoding (`30_encoding.md`): the fields of the words that the encoder makes, that decoding and encoding are inverse to
each other, and the words of the assembler's statements. -/

namespace Sys2Proof

/-! ## The words of the encoder (R81) -/

theorem toNat_cmdWord {op n : Nat} (hop : op < 256) (hn : n < 256) : (cmdWord op n).toNat = n <<< 8 ||| op := by
  rw [cmdWord, BitVec.toNat_append, BitVec.toNat_append, BitVec.toNat_ofNat, BitVec.toNat_ofNat, BitVec.toNat_ofNat,
    Nat.mod_eq_of_lt hop, Nat.mod_eq_of_lt hn]
  simp

/-- The word of the encoder is the immediate above the opcode, by bits. -/
theorem cmdWord_eq_ofNat_or {op n : Nat} (hop : op < 256) (hn : n < 256) :
    cmdWord op n = BitVec.ofNat 32 (n <<< 8 ||| op) := by
  rw [← toNat_cmdWord hop hn, BitVec.ofNat_toNat, BitVec.setWidth_eq]

/-- The encoder's word decodes by the opcode and the immediate it was made of. -/
theorem decodeCmd_cmdWord {op n : Nat} (hop : op < 256) (hn : n < 256) : decodeCmd (cmdWord op n) = decodeOp op n := by
  have hsum : n <<< 8 ||| op = n * 256 + op := by
    rw [← Nat.shiftLeft_add_eq_or_of_lt hop, Nat.shiftLeft_eq]
  rw [cmdWord_eq_ofNat_or hop hn, hsum, decodeCmd_ofNat hop hn]

/-- A word with RSV = 0 is the encoder's word of its other two fields. -/
theorem cmdWord_opField_immField {v : Word} (hrsv : rsvField v = 0) : cmdWord (opField v) (immField v) = v := by
  have hzero : v.extractLsb' 16 16 = 0#16 := BitVec.eq_of_toNat_eq hrsv
  conv_rhs => rw [← rsv_append_imm_append_op v, hzero]
  rw [cmdWord, opField, immField, BitVec.ofNat_toNat, BitVec.ofNat_toNat, BitVec.setWidth_eq, BitVec.setWidth_eq]

/-! ## Decoding and encoding are inverse -/

/-- Settles O1: the word of a command decodes by its two fields, and a request by its value. -/
theorem decodeOfEncodeIsIdentity : Obligations.DecodeOfEncodeIsIdentity := by
  intro i hwf
  cases i with
  | init n | setPixel n | modBright n => exact decodeCmd_cmdWord (by decide) (of_decide_eq_true hwf)
  | transmit | wipe | abort => exact decodeCmd_cmdWord (by decide) (by decide)
  | encode cap =>
    have hcap : (BitVec.ofNat 32 cap).toNat = cap := Nat.mod_eq_of_lt (of_decide_eq_true hwf)
    exact congrArg (fun n => Except.ok (Instr.encode n)) hcap

/-- A command word that decodes is the encoding of its instruction, which is well formed: its immediate is IMM8. -/
theorem encode_of_decodeCmd {v : Word} {i : Instr} (h : decodeCmd v = .ok i) : i.wf = true ∧ encode i = (.cmd, v) := by
  obtain ⟨hrsv, hfor⟩ := decodeCmd_ok_iff.1 h
  have hword := cmdWord_opField_immField hrsv
  have himm : immField v < 2 ^ 8 := (v.extractLsb' 8 8).isLt
  cases i with
  | init n | setPixel n | modBright n =>
    obtain ⟨hop, rfl⟩ := hfor
    rw [hop] at hword
    exact ⟨decide_eq_true himm, congrArg (Prod.mk Port.cmd) hword⟩
  | transmit | wipe | abort =>
    obtain ⟨hop, hzero⟩ := hfor
    rw [hop, hzero] at hword
    exact ⟨rfl, congrArg (Prod.mk Port.cmd) hword⟩
  | encode cap => exact hfor.elim

/-- Settles O2: `encode_of_decodeCmd` on the CMD register; on the symbol port the word is the capacity. -/
theorem encodeOfDecodeIsIdentity : Obligations.EncodeOfDecodeIsIdentity := by
  intro p v i h
  cases p with
  | cmd => exact encode_of_decodeCmd h
  | symbol =>
    obtain rfl := Except.ok.inj h
    have hword : BitVec.ofNat 32 v.toNat = v := by rw [BitVec.ofNat_toNat, BitVec.setWidth_eq]
    exact ⟨decide_eq_true v.isLt, congrArg (Prod.mk Port.symbol) hword⟩

/-- Settles O5: each word decodes by computation. -/
theorem sampleWordsDecode : Obligations.SampleWordsDecode := ⟨rfl, rfl, rfl, rfl, rfl, rfl, rfl⟩

end Sys2Proof

namespace Sys2Proof.Machine

/-! ## The statements of the assembler (R96) -/

/-- A command statement is a write to CMD of the immediate above the opcode. -/
theorem portInput_cmdWord {op n : Nat} (hop : op < 256) (hn : n < 256) :
    portInput .cmd (cmdWord op n) = .host 0x00 4 (.write (BitVec.ofNat 32 (n <<< 8 ||| op))) := by
  rw [cmdWord_eq_ofNat_or hop hn, portInput]

/-- Settles O6: the commands with an immediate by `portInput_cmdWord`, the request by its value, the rest as they
stand. -/
theorem assemblerStatementEncodings : Obligations.AssemblerStatementEncodings := by
  refine ⟨fun n hn => ⟨portInput_cmdWord (by decide) hn, portInput_cmdWord (by decide) hn,
    portInput_cmdWord (by decide) hn⟩, rfl, rfl, rfl, fun c => ?request, fun r v => ⟨rfl, rfl⟩⟩
  case request =>
    have hword : BitVec.ofNat 32 c.toNat = c := by rw [BitVec.ofNat_toNat, BitVec.setWidth_eq]
    exact congrArg Input.request hword

end Sys2Proof.Machine
end

section
/-! The host port (`20_memory.md`) and the registers: a bus access is the access at its offset, which accesses are
refused, writes and reads of the operand registers, the fields of STATUS, and which accesses write RESULT. -/

namespace Sys2Proof.Machine

/-! ## What an access answers (R50 to R52) -/

/-- In the window the registers stand at the word-aligned offsets (R22). -/
theorem isSome_regAt : ∀ off < windowBytes, (regAt off).isSome = decide (off % 4 = 0) := by decide

/-- An access in the window that is not whole and aligned is refused (R51). -/
theorem hostAccess_of_partial {off size : Nat} (hwindow : off < windowBytes) (h : size ≠ 4 ∨ off % 4 ≠ 0) (op : BusOp)
    (s : State) : hostAccess off size op s = .refused .partialAccess := by
  rw [hostAccess, if_neg (not_le.2 hwindow)]
  split
  · rfl
  · have hoff : off % 4 ≠ 0 := h.resolve_left ‹_›
    have hnone : regAt off = none := by
      rw [← Option.isNone_iff_eq_none, ← Option.not_isSome, isSome_regAt off hwindow, decide_eq_false hoff,
        Bool.not_false]
    rw [hnone]

/-- An access outside the window is refused under its own name (R52). -/
theorem hostAccess_of_outside {off : Nat} (h : windowBytes ≤ off) (size : Nat) (op : BusOp) (s : State) :
    hostAccess off size op s = .refused .outsideWindow := if_pos h

/-- A bus access at an offset from LPE_BASE is the host access at that offset (R50). -/
theorem busAccess_lpeBase_add (off size : Nat) (op : BusOp) (s : State) :
    busAccess (s.params.lpeBase + off) size op s = hostAccess off size op s := by
  rw [busAccess, if_neg (by omega), Nat.add_sub_cancel_left]

theorem busAccess_of_outside {addr : Nat} {s : State} (h : addr < s.params.lpeBase ∨ s.params.lpeBase + 0x1F < addr)
    (size : Nat) (op : BusOp) : busAccess addr size op s = .refused .outsideWindow := by
  rw [busAccess]
  split
  · rfl
  · exact hostAccess_of_outside (by rw [windowBytes]; omega) size op s

/-- Settles O11: the two refusals of a host access, that of a bus access, and the bus access as the host access at its
offset. -/
theorem malformedAccessesAreRefused : Obligations.MalformedAccessesAreRefused := fun s off size op =>
  ⟨fun hwindow hpartial => hostAccess_of_partial hwindow hpartial op s,
    fun houtside => hostAccess_of_outside houtside size op s,
    fun _ houtside => busAccess_of_outside houtside size op,
    busAccess_lpeBase_add off size op s⟩

/-- Every command word gives a next state, legal or not (R220). -/
theorem command_answers (v : Word) (s : State) : ∃ t, command v s = .next t := by
  cases hd : decodeCmd v with
  | ok i => exact ⟨_, command_ok hd s⟩
  | error e => exact ⟨_, command_error hd s⟩

/-- Every whole aligned access gives a next state. -/
theorem regAccess_answers (r : Reg) (op : BusOp) (s : State) : ∃ t, regAccess r op s = .next t := by
  cases op with
  | read => exact ⟨_, rfl⟩
  | write v =>
    cases r with
    | cmd => exact command_answers v s
    | status | idx | propR | propG | propB | cursor | info => exact ⟨_, rfl⟩

/-- An access gives a next state unless it is outside the window, partial or misaligned. -/
theorem hostAccess_answers_or (off size : Nat) (op : BusOp) (s : State) :
    (∃ t, hostAccess off size op s = .next t) ∨ 0x20 ≤ off ∨ size ≠ 4 ∨ off % 4 ≠ 0 := by
  by_cases h : 0x20 ≤ off ∨ size ≠ 4 ∨ off % 4 ≠ 0
  · exact .inr h
  · simp only [not_or, not_le, not_not] at h
    obtain ⟨hwindow, rfl, haligned⟩ := h
    have hsome : (regAt off).isSome = true := by rw [isSome_regAt off hwindow, decide_eq_true haligned]
    obtain ⟨r, hr⟩ := Option.isSome_iff_exists.1 hsome
    obtain ⟨t, ht⟩ := regAccess_answers r op s
    refine .inl ⟨t, ?_⟩
    have hinside : ¬windowBytes ≤ off := not_le.2 hwindow
    rw [hostAccess, if_neg hinside, if_neg (not_not.2 rfl), hr]
    exact ht

/-- Settles O12: an instruction has its effect, and of the inputs only a host access can be refused. -/
theorem onlyMalformedAccessesStop : Obligations.OnlyMalformedAccessesStop := by
  refine ⟨fun i s => ⟨effect i s, exec_eq i s⟩, fun s => ?_⟩
  cases hinputs : s.inputs with
  | nil => exact .inl ⟨s, step_idle hinputs⟩
  | cons x rest =>
    rw [step_serve hinputs]
    cases x with
    | host off size op =>
      rcases hostAccess_answers_or off size op { s with inputs := rest } with hnext | hmalformed
      · exact .inl hnext
      · exact .inr ⟨_, rest, rfl, .inl ⟨off, size, op, rfl, hmalformed⟩⟩
    | bus addr size op =>
      rcases lt_or_ge addr s.params.lpeBase with hbelow | habove
      · exact .inr ⟨_, rest, rfl, .inr ⟨addr, size, op, rfl, .inl hbelow⟩⟩
      · obtain ⟨off, rfl⟩ := Nat.exists_eq_add_of_le habove
        rcases hostAccess_answers_or off size op { s with inputs := rest } with hnext | hmalformed
        · exact .inl (hnext.imp fun _ ht => (busAccess_lpeBase_add off size op { s with inputs := rest }).trans ht)
        · exact .inr ⟨_, rest, rfl, .inr ⟨_, size, op, rfl, by omega⟩⟩
    | request v => exact .inl ⟨_, exec_eq (decodeRequest v) _⟩
    | reset => exact .inl ⟨_, rfl⟩

/-! ## What the steps run -/

/-- The step of a bus access at an offset from LPE_BASE. -/
theorem step_push_bus (off size : Nat) (op : BusOp) (s : State) :
    step (push (.bus (s.params.lpeBase + off) size op) s) = step (push (.host off size op) s) :=
  busAccess_lpeBase_add off size op s

/-- Settles O7: a CMD write by offset carries out its word, by bus address it is the write at offset 0, and a request is
served as it stands. -/
theorem stepRunsDecodedInstruction : Obligations.StepRunsDecodedInstruction := by
  refine fun v i s => ⟨fun hd => ?_, rfl⟩
  have hcmd : step (push (.host 0x00 4 (.write v)) s) = exec i s := by rw [step_push_cmd, command_ok hd, exec_eq]
  exact ⟨hcmd, (step_push_bus 0x00 4 (.write v) s).trans hcmd⟩

/-- A whole aligned write is the write of its register. -/
theorem step_push_write (r : Reg) (v : Word) (s : State) :
    step (push (.host (regOffset r) 4 (.write v)) s) = writeReg r v s :=
  (step_push _ s).trans (hostAccess_regOffset r (.write v) s)

/-- A run takes its steps one by one. -/
theorem run_succ {s u : State} (h : step s = .next u) (k : Nat) :
    Host.Core.run Sys2Proof.core (k + 1) s = Host.Core.run Sys2Proof.core k u := by
  simp only [Host.Core.run, Host.Check.core_step, h]

theorem run_zero (s : State) : Host.Core.run Sys2Proof.core 0 s = .next s := rfl

/-- A write that leaves `u`, and then a read of the same register. -/
theorem run_write_read {r : Reg} {v : Word} {s u : State}
    (hwrite : writeReg r v (push (.host (regOffset r) 4 .read) s) = .next (push (.host (regOffset r) 4 .read) u)) :
    Host.Core.run Sys2Proof.core 2
      (push (.host (regOffset r) 4 (.write v)) (push (.host (regOffset r) 4 .read) s)) = .next (readStep r u) := by
  rw [run_succ ((step_push_write r v _).trans hwrite), run_succ (step_push_read r u), run_zero]

/-- Settles O9: each write is `writeReg` of its register, and a read after it returns what it stored. -/
theorem registerWritesStoreOrAreIgnored : Obligations.RegisterWritesStoreOrAreIgnored := by
  refine fun s v => ⟨step_push_write .idx v s, step_push_write .propR v s, step_push_write .propG v s,
    step_push_write .propB v s, step_push_write .status v s, step_push_write .cursor v s, step_push_write .info v s, ?_⟩
  simp only [List.forall_mem_cons]
  exact ⟨⟨_, run_write_read (r := .idx) (u := { s with idx := v }) rfl, rfl, rfl⟩,
    ⟨_, run_write_read (r := .propR) (u := { s with propR := v }) rfl, rfl, rfl⟩,
    ⟨_, run_write_read (r := .propG) (u := { s with propG := v }) rfl, rfl, rfl⟩,
    ⟨_, run_write_read (r := .propB) (u := { s with propB := v }) rfl, rfl, rfl⟩, List.forall_mem_nil _⟩

/-! ## STATUS (R24) -/

/-- Joining a word above one of `n` bits is arithmetic. -/
theorem toNat_append_eq_mul_add {m n : Nat} (x : BitVec m) (y : BitVec n) :
    (x ++ y).toNat = x.toNat * 2 ^ n + y.toNat := by
  rw [BitVec.toNat_append, ← Nat.shiftLeft_add_eq_or_of_lt y.isLt, Nat.shiftLeft_eq]

/-- STATUS as a number, field by field. -/
theorem toNat_statusWord {s : State} (hsel : s.sel < 256) :
    (statusWord s).toNat = s.sel * 256 + (phaseBit s.phase).toNat * 64 + s.busy.toNat * 32 + s.init.toNat * 16 +
      (resultBits s.result).toNat := by
  simp only [statusWord, toNat_append_eq_mul_add, BitVec.toNat_ofNat, BitVec.toNat_ofBool, Nat.mod_eq_of_lt hsel]
  omega

/-- The digits of a number put together as STATUS is. -/
theorem status_digits {sel phase busy init result : Nat} (hsel : sel < 256) (hphase : phase < 2) (hbusy : busy < 2)
    (hinit : init < 2) (hresult : result < 16) {n : Nat}
    (hn : n = sel * 256 + phase * 64 + busy * 32 + init * 16 + result) :
    n % 16 = result ∧ n / 16 % 2 = init ∧ n / 32 % 2 = busy ∧ n / 64 % 2 = phase ∧ n / 128 % 2 = 0 ∧
      n / 256 % 256 = sel ∧ n / 65536 = 0 := by
  refine ⟨?_, ?_, ?_, ?_, ?_, ?_, ?_⟩ <;> omega

/-- Settles O10: each field is a digit of STATUS, and the numbers of the codes and flags are the rule's. -/
theorem statusFields : Obligations.StatusFields := by
  intro s hsel
  obtain ⟨hresult, hinit, hbusy, hphase, hzero, hprofile, habove⟩ := status_digits hsel (phaseBit s.phase).isLt
    s.busy.toNat_lt s.init.toNat_lt (resultBits s.result).isLt (toNat_statusWord hsel)
  refine ⟨hresult.trans ?result, hinit.trans ?init, hbusy.trans ?busy, hphase.trans ?phase, hzero, hprofile, habove⟩
  case result => cases s.result <;> rfl
  case init => cases s.init <;> rfl
  case busy => cases s.busy <;> rfl
  case phase => cases s.phase <;> rfl

/-! ## Who writes RESULT (R227) -/

/-- An access that gives a next state is whole, and of a register. -/
theorem regAccess_of_hostAccess {off size : Nat} {op : BusOp} {s t : State} (h : hostAccess off size op s = .next t) :
    size = 4 ∧ ∃ r, regAt off = some r ∧ regAccess r op s = .next t := by
  rw [hostAccess] at h
  split at h
  · cases h
  split at h
  · cases h
  next hsize =>
    refine ⟨not_not.1 hsize, ?_⟩
    split at h
    next r hr => exact ⟨r, hr, h⟩
    · cases h

/-- Of the host accesses only a whole write to CMD changes RESULT. -/
theorem cmd_write_of_result_ne {off size : Nat} {op : BusOp} {s t : State} (h : hostAccess off size op s = .next t)
    (hne : t.result ≠ s.result) : off = 0x00 ∧ size = 4 ∧ ∃ v, op = .write v := by
  obtain ⟨hsize, r, hr, hreg⟩ := regAccess_of_hostAccess h
  cases op with
  | read =>
    obtain rfl := Host.Outcome.next.inj hreg
    exact absurd rfl hne
  | write v =>
    cases r with
    | cmd => exact ⟨regAt_cmd hr, hsize, v, rfl⟩
    | status | idx | propR | propG | propB | cursor | info =>
      obtain rfl := Host.Outcome.next.inj hreg
      exact absurd rfl hne

/-- ENCODE writes no RESULT (R151). -/
theorem encodeEffect_result (cap : Nat) (s : State) : (encodeEffect cap s).result = s.result := by
  rcases encodeEffect_cases cap s with ⟨-, h⟩ | ⟨-, ⟨ws, h⟩ | ⟨ws, k, ph, h⟩⟩ <;> simp [h]

/-- Settles O23: a host access by `cmd_write_of_result_ne`, a bus access as the host access at its offset, and a request
writes no RESULT. -/
theorem resultKeptBetweenCommands : Obligations.ResultKeptBetweenCommands := by
  intro x s t h hne
  cases x with
  | host off size op =>
    obtain ⟨rfl, rfl, v, rfl⟩ := cmd_write_of_result_ne h hne
    exact .inr (.inl ⟨v, rfl⟩)
  | bus addr size op =>
    rw [step_push, serve, busAccess] at h
    split at h
    · cases h
    next habove =>
      obtain ⟨hoff, rfl, v, rfl⟩ := cmd_write_of_result_ne h hne
      have haddr : addr = s.params.lpeBase := by omega
      exact .inr (.inr ⟨v, by rw [haddr]⟩)
  | request v =>
    obtain rfl := Host.Outcome.next.inj ((exec_eq (decodeRequest v) s).symm.trans h)
    exact absurd (encodeEffect_result v.toNat s) hne
  | reset => exact .inl rfl

end Sys2Proof.Machine
end

section
/-! Reset and the invariant (`10_state.md`, `70_reset_and_hazards.md`): the reset state meets it and every step keeps
it. -/

namespace Sys2Proof.Machine

/-- The parameters of the reset state are legal, whatever the free ones are (R7). -/
theorem legal_configParams : Config.params.Legal := by
  rw [Config.params]
  split
  next hlegal => exact hlegal
  · decide +kernel

/-- The reset state is what a reset step makes of itself. -/
theorem blockInv_resetWith {p : Params} (hlegal : p.Legal) : BlockInv (State.resetWith p) :=
  blockInv_resetBlock (s := State.resetWith p) hlegal

/-- Settles O15: the reset state of legal parameters, which those of the model are. -/
theorem resetMeetsInvariant : Obligations.ResetMeetsInvariant :=
  ⟨blockInv_resetWith legal_configParams, fun _ => blockInv_resetWith⟩

/-- Settles O14: the step is `resetBlock`, which leaves no frame in flight. -/
theorem resetStepRestoresResetState : Obligations.ResetStepRestoresResetState := fun s =>
  ⟨resetBlock s, rfl, rfl, fun cap => encodeWhileIdleReturnsIdle cap _ rfl⟩

/-- Settles O16: a step waits, or serves an input, and that keeps the invariant. -/
theorem everyStepKeepsInvariant : Obligations.EveryStepKeepsInvariant := by
  intro s t hinv h
  rcases step_cases h with rfl | ⟨x, rest, -, h⟩
  · exact hinv
  · exact (hinv.with_inputs rest).after_serve h

end Sys2Proof.Machine
end

section
/-! Frames (`60_exceptions.md`): a command that fails changes only RESULT and the environment, and for each instruction
the fields that it may write. -/

namespace Sys2Proof.Machine

/-! ## What a read of a store depends on -/

theorem getTx_congr {s t : State} (h : t.txBuf = s.txBuf) (k : Nat) : getTx t k = getTx s k := by
  rw [getTx, getTx, h]

theorem getPix_congr {s t : State} (h : t.pix = s.pix) (j : Nat) : getPix t j = getPix s j := by
  rw [getPix, getPix, h]

/-- A frame that writes neither store keeps every read of them. -/
theorem reads_of_frame {s t u : State} (h : t = u) (htx : u.txBuf = s.txBuf) (hpix : u.pix = s.pix) :
    (∀ k, getTx t k = getTx s k) ∧ ∀ j, getPix t j = getPix s j :=
  h ▸ ⟨getTx_congr htx, getPix_congr hpix⟩

/-- Beyond its range the transmit buffer reads the same in every state of the invariant. -/
theorem getTx_of_range {s t : State} (hs : BlockInv s) (ht : BlockInv t) (hparams : t.params = s.params) {k : Nat}
    (hk : nBytes s.params ≤ k) : getTx t k = getTx s k := by
  rw [getTx, getTx, Sparse.get_of_range hs.txRange hk, Sparse.get_of_range ht.txRange (hparams.symm ▸ hk)]

/-- Beyond the last pixel the pixel store reads the same in every state of the invariant. -/
theorem getPix_of_range {s t : State} (hs : BlockInv s) (ht : BlockInv t) (hparams : t.params = s.params) {j : Nat}
    (hj : s.params.ledCount ≤ j) : getPix t j = getPix s j := by
  rw [getPix, getPix, Sparse.get_of_range hs.pixRange hj, Sparse.get_of_range ht.pixRange (hparams.symm ▸ hj)]

/-! ## Commands that fail (R224) -/

/-- From `s` to `t` nothing changes but RESULT and the environment's answers. -/
def OnlyResult (s t : State) : Prop := t = { s with result := t.result, env := t.env }

theorem OnlyResult.reads {s t : State} (h : OnlyResult s t) :
    (∀ k, getTx t k = getTx s k) ∧ ∀ j, getPix t j = getPix s j := reads_of_frame h rfl rfl

theorem onlyResult_finish (c : ResultCode) (s : State) : OnlyResult s (finish c s) := rfl

theorem onlyResult_requireInit {k : State → State} {s : State} (hk : (k s).result ≠ .ok → OnlyResult s (k s))
    (h : (requireInit k s).result ≠ .ok) : OnlyResult s (requireInit k s) := by
  rcases requireInit_cases k s with ⟨-, hr⟩ | ⟨-, hr⟩
  · rw [hr]
    exact onlyResult_finish _ s
  · rw [hr] at h ⊢
    exact hk h

theorem onlyResult_initEffect {n : Nat} {s : State} (h : (initEffect n s).result ≠ .ok) :
    OnlyResult s (initEffect n s) := by
  rcases initEffect_cases n s with he | ⟨-, -, -, -, he⟩ | ⟨-, -, -, -, he⟩
  · rw [he]
    exact onlyResult_finish _ s
  · exact absurd (congrArg State.result he) h
  · rw [he]
    rfl

theorem onlyResult_storePixel {q : Proportion} {n : Nat} {s : State} (h : (storePixel q n s).result ≠ .ok) :
    OnlyResult s (storePixel q n s) := by
  rcases le_or_gt s.params.ledCount s.idx.toNat with hidx | hidx
  · rw [storePixel_of_le hidx]
    exact onlyResult_finish _ s
  · rw [storePixel_of_lt hidx] at h
    exact absurd rfl h

theorem onlyResult_frameEffect {fill : State → State} {s : State} (h : (frameEffect fill s).result ≠ .ok) :
    OnlyResult s (frameEffect fill s) := by
  rcases frameEffect_cases fill s with ⟨-, he⟩ | ⟨-, -, he⟩ | ⟨-, -, he⟩
  · rw [he]
    exact onlyResult_finish _ s
  · exact absurd (congrArg State.result he) h
  · rw [he]
    rfl

/-- Every command that fails changes only RESULT and the environment. ENCODE is no command. -/
theorem onlyResult_effect {i : Instr} (hi : ∀ cap, i ≠ .encode cap) {s : State} (h : (effect i s).result ≠ .ok) :
    OnlyResult s (effect i s) := by
  cases i with
  | init n => exact onlyResult_initEffect h
  | setPixel n => exact onlyResult_requireInit (onlyResult_storePixel (q := propOperand s) (n := n)) h
  | modBright n => exact onlyResult_requireInit (onlyResult_storePixel (q := storedProp s (pixelIndex s)) (n := n)) h
  | transmit | wipe => exact onlyResult_requireInit onlyResult_frameEffect h
  | abort => exact onlyResult_requireInit (fun hne => absurd rfl hne) h
  | encode cap => exact absurd rfl (hi cap)

theorem decodeCmd_ne_encode {v : Word} {i : Instr} (h : decodeCmd v = .ok i) (cap : Nat) : i ≠ .encode cap := by
  rintro rfl
  exact (decodeCmd_ok_iff.1 h).2

/-- Settles O20: an ILLEGAL word records its result, and any other runs a command, which fails by changing only
RESULT. -/
theorem failedCommandsChangeOnlyResult : Obligations.FailedCommandsChangeOnlyResult := by
  intro v s t h hne
  rw [step_push_cmd] at h
  cases hd : decodeCmd v with
  | ok i =>
    rw [command_ok hd, Host.Outcome.next.injEq] at h
    subst h
    exact onlyResult_effect (decodeCmd_ne_encode hd) hne
  | error e =>
    rw [command_error hd, Host.Outcome.next.injEq] at h
    subst h
    exact onlyResult_finish _ s

/-- Settles O21: the check of `Init` comes first in each of the five commands. -/
theorem commandsBeforeInitGiveNotInit : Obligations.CommandsBeforeInitGiveNotInit := by
  rintro i s hinit (rfl | rfl | rfl | ⟨n, rfl⟩ | ⟨n, rfl⟩)
  · exact exec_frame_of_not_init (exec_transmit s) hinit
  · exact exec_frame_of_not_init (exec_wipe s) hinit
  · exact (abortEndsFrame s).1 hinit
  · exact exec_pixel_of_not_init (exec_setPixel n s) hinit
  · exact exec_pixel_of_not_init (exec_modBright n s) hinit

/-! ## What each instruction may write -/

theorem initEffect_frame (n : Nat) (s : State) :
    initEffect n s = { s with
      result := (initEffect n s).result, init := (initEffect n s).init, sel := (initEffect n s).sel,
      tick := (initEffect n s).tick, env := (initEffect n s).env } := by
  rcases initEffect_cases n s with h | ⟨-, -, -, -, h⟩ | ⟨-, -, -, -, h⟩ <;> (rw [h]; rfl)

/-- The fields that a pixel command may write. -/
def PixelFrame (s t : State) : Prop := t = { s with result := t.result, pix := t.pix }

theorem PixelFrame.getTx {s t : State} (h : PixelFrame s t) (k : Nat) : getTx t k = getTx s k := by rw [h]; rfl

theorem pixelFrame_requireInit_storePixel (q : Proportion) (n : Nat) (s : State) :
    PixelFrame s (requireInit (storePixel q n) s) := by
  rcases requireInit_cases (storePixel q n) s with ⟨-, h⟩ | ⟨-, h⟩
  · rw [h]
    rfl
  · rcases le_or_gt s.params.ledCount s.idx.toNat with hidx | hidx
    · rw [h, storePixel_of_le hidx]
      rfl
    · rw [h, storePixel_of_lt hidx]
      rfl

/-- A pixel command in a canonical store: pixel `IDX` keeps its value or becomes the shaded one, and the others keep
theirs. -/
theorem getPix_requireInit_storePixel {s : State} (hwf : Sparse.wf Pixel.reset s.pix) (q : Proportion) (n j : Nat) :
    getPix (requireInit (storePixel q n) s) j = getPix s j ∨
      j = s.idx.toNat ∧ getPix (requireInit (storePixel q n) s) j = shadedPixel s q n := by
  rcases requireInit_cases (storePixel q n) s with ⟨-, h⟩ | ⟨-, h⟩
  · exact .inl (by rw [h, getPix_finish])
  · rcases le_or_gt s.params.ledCount s.idx.toNat with hidx | hidx
    · exact .inl (by rw [h, storePixel_of_le hidx, getPix_finish])
    · rw [h, getPix_storePixel hidx hwf]
      split
      next hj => exact .inr ⟨hj, rfl⟩
      · exact .inl rfl

/-- MOD_BRIGHT keeps the proportions of every pixel (R135). -/
theorem prop_effect_modBright {s : State} (hwf : Sparse.wf Pixel.reset s.pix) (n j : Nat) :
    (getPix (effect (.modBright n) s) j).prop = (getPix s j).prop := by
  rcases getPix_requireInit_storePixel hwf (getPix s s.idx.toNat).prop n j with hsame | ⟨rfl, hshaded⟩
  · exact congrArg Pixel.prop hsame
  · exact (congrArg Pixel.prop hshaded :)

/-- A fill of the transmit buffer writes the two stores and nothing else. -/
def FillsStores (fill : State → State) : Prop := ∀ s, fill s = { s with txBuf := (fill s).txBuf, pix := (fill s).pix }

theorem fillsStores_pack : FillsStores pack := fun _ => rfl

theorem fillsStores_blank : FillsStores blank := fun _ => rfl

/-- The fields that a frame start may write. -/
theorem requireInit_frameEffect_frame {fill : State → State} (hfill : FillsStores fill) (s : State) :
    requireInit (frameEffect fill) s = { s with
      result := (requireInit (frameEffect fill) s).result, phase := (requireInit (frameEffect fill) s).phase,
      bitpos := (requireInit (frameEffect fill) s).bitpos, busy := (requireInit (frameEffect fill) s).busy,
      txBuf := (requireInit (frameEffect fill) s).txBuf, pix := (requireInit (frameEffect fill) s).pix,
      env := (requireInit (frameEffect fill) s).env } := by
  rcases requireInit_cases (frameEffect fill) s with ⟨-, h⟩ | ⟨-, h⟩
  · rw [h]
    rfl
  · rcases frameEffect_cases fill s with ⟨-, he⟩ | ⟨-, -, he⟩ | ⟨-, -, he⟩
    · rw [h, he]
      rfl
    · rw [h, he, hfill]
      rfl
    · rw [h, he]
      rfl

/-- TRANSMIT writes no pixel. -/
theorem requireInit_frameEffect_pack_pix (s : State) : (requireInit (frameEffect pack) s).pix = s.pix := by
  rcases requireInit_cases (frameEffect pack) s with ⟨-, h⟩ | ⟨-, h⟩
  · simp [h]
  · rcases frameEffect_cases pack s with ⟨-, he⟩ | ⟨-, -, he⟩ | ⟨-, -, he⟩ <;> simp [h, he]

/-- An accepted WIPE makes a pixel black and keeps its proportions. -/
theorem getPix_acceptedFrame_blank_of_lt {s : State} {j : Nat} (hj : j < s.params.ledCount) :
    getPix (acceptedFrame blank s) j = ⟨(getPix s j).prop, ⟨0#8, 0#8, 0#8⟩⟩ := by
  rw [getPix_acceptedFrame_blank, getPix_blank, if_pos hj]

/-- WIPE keeps the proportions of every pixel (R143). -/
theorem requireInit_frameEffect_blank_prop {s : State} {j : Nat} (hj : j < s.params.ledCount) :
    (getPix (requireInit (frameEffect blank) s) j).prop = (getPix s j).prop := by
  rcases requireInit_cases (frameEffect blank) s with ⟨-, h⟩ | ⟨-, h⟩
  · rw [h, getPix_finish]
  · rcases frameEffect_cases blank s with ⟨-, he⟩ | ⟨-, -, he⟩ | ⟨-, -, he⟩
    · rw [h, he, getPix_finish]
    · rw [h, he]
      exact (congrArg Pixel.prop (getPix_acceptedFrame_blank_of_lt hj) :)
    · rw [h, he]
      rfl

theorem requireInit_abortEffect_frame (s : State) :
    requireInit abortEffect s = { s with
      result := (requireInit abortEffect s).result, phase := (requireInit abortEffect s).phase,
      bitpos := (requireInit abortEffect s).bitpos, busy := (requireInit abortEffect s).busy } := by
  rcases requireInit_cases abortEffect s with ⟨-, h⟩ | ⟨-, h⟩ <;> (rw [h]; rfl)

theorem encodeEffect_frame (cap : Nat) (s : State) :
    encodeEffect cap s = { s with
      phase := (encodeEffect cap s).phase, bitpos := (encodeEffect cap s).bitpos, busy := (encodeEffect cap s).busy,
      trace := (encodeEffect cap s).trace } := by
  rcases encodeEffect_cases cap s with ⟨-, h⟩ | ⟨-, ⟨ws, h⟩ | ⟨ws, k, ph, h⟩⟩ <;> (rw [h]; rfl)

/-- The state that an instruction answers is its effect. -/
theorem effect_eq_of_exec {i : Instr} {s t : State} (h : exec i s = .next t) : effect i s = t :=
  Host.Outcome.next.inj ((exec_eq i s).symm.trans h)

/-- Settles O22: the frame of each instruction; a failed one changes only RESULT, and beyond the ranges of the stores
the invariant fixes every read. -/
theorem instructionFrames : Obligations.InstructionFrames := by
  refine fun s t => ⟨fun n h => ?init, fun n h => ?pixel, fun n h hwf j => ?modBright, fun h => ?transmit,
    fun h => ?wipe, fun h => ?abort, fun n h => ?encode⟩
  case init =>
    obtain rfl := effect_eq_of_exec h
    have hframe := initEffect_frame n s
    exact ⟨hframe, reads_of_frame hframe rfl rfl⟩
  case pixel =>
    obtain ⟨q, hq⟩ : ∃ q, t = requireInit (storePixel q n) s := by
      rcases h with h | h
      · exact ⟨_, (effect_eq_of_exec h).symm⟩
      · exact ⟨_, (effect_eq_of_exec h).symm⟩
    have hframe : PixelFrame s t := hq ▸ pixelFrame_requireInit_storePixel q n s
    refine ⟨hframe, hframe.getTx, fun hfailed => ?_, fun hwf j hj => ?_⟩
    · have honly : OnlyResult s t := hq ▸ onlyResult_requireInit onlyResult_storePixel (hq ▸ hfailed)
      exact honly.reads.2
    · rw [hq]
      exact (getPix_requireInit_storePixel hwf q n j).resolve_right fun hidx => hj hidx.1
  case modBright =>
    obtain rfl := effect_eq_of_exec h
    exact prop_effect_modBright hwf n j
  case transmit =>
    obtain rfl := effect_eq_of_exec h
    have hpix := requireInit_frameEffect_pack_pix s
    refine ⟨?_, getPix_congr hpix, fun hfailed => ?_, fun hinv k => ?_⟩
    · have hframe := requireInit_frameEffect_frame fillsStores_pack s
      rw [hpix] at hframe
      exact hframe
    · exact (onlyResult_effect (by simp) hfailed).reads.1
    · exact getTx_of_range hinv (hinv.after_effect .transmit) (effect_params .transmit s)
  case wipe =>
    obtain rfl := effect_eq_of_exec h
    refine ⟨requireInit_frameEffect_frame fillsStores_blank s, fun j => requireInit_frameEffect_blank_prop,
      fun hfailed => ?_, fun hinv => ?_⟩
    · exact (onlyResult_effect (by simp) hfailed).reads.symm
    · have hinv' := hinv.after_effect .wipe
      have hparams := effect_params .wipe s
      exact ⟨fun j => getPix_of_range hinv hinv' hparams, fun k => getTx_of_range hinv hinv' hparams⟩
  case abort =>
    obtain rfl := effect_eq_of_exec h
    have hframe := requireInit_abortEffect_frame s
    exact ⟨hframe, reads_of_frame hframe rfl rfl⟩
  case encode =>
    obtain rfl := effect_eq_of_exec h
    have hframe := encodeEffect_frame n s
    exact ⟨hframe, reads_of_frame hframe rfl rfl⟩

end Sys2Proof.Machine
end

section
/-! Exact arithmetic (`40_color_model.md`, `43_timing_profile.md`): the bounds of a truncated bit period, the value of a
binary32 word, and the clamp of a proportion as the clamp of its value. -/

namespace Sys2Proof.Machine

/-! ## The bit period (R189) -/

theorem ticks_le (p : Params) (t : Nat) : (ticks p t : ℚ) ≤ t * p.clkHz / 1000000000 := by
  have hfloor : ((ticks p t : ℤ) : ℚ) ≤ t * p.clkHz / 1000000000 := by
    rw [ticks_eq_floor]
    exact Int.floor_le _
  exact_mod_cast hfloor

theorem lt_ticks_add_one (p : Params) (t : Nat) : (t : ℚ) * p.clkHz / 1000000000 < ticks p t + 1 := by
  have hfloor : (t : ℚ) * p.clkHz / 1000000000 < ((ticks p t : ℤ) : ℚ) + 1 := by
    rw [ticks_eq_floor]
    exact Int.lt_floor_add_one _
  exact_mod_cast hfloor

/-- Settles O26: each of the two durations loses less than a tick, and nothing is gained. -/
theorem bitPeriodWithinTwoTicks : Obligations.BitPeriodWithinTwoTicks := by
  intro p hi lo
  have hsum : ((hi + lo : ℕ) : ℚ) * p.clkHz / 1000000000 =
      hi * p.clkHz / 1000000000 + lo * p.clkHz / 1000000000 := by
    push_cast
    ring
  rw [hsum, Nat.cast_add]
  have hhi := lt_ticks_add_one p hi
  have hlo := lt_ticks_add_one p lo
  exact ⟨add_le_add (ticks_le p hi) (ticks_le p lo), by linarith⟩

/-! ## The value of a word (R113) -/

theorem value_of_expField_le {w : Word} (h : expField w ≤ 254) : value w = .finite (w.getLsbD 31) (magnitude w) :=
  if_pos h

theorem value_of_expField_eq {w : Word} (h : expField w = 255) :
    value w = if fracField w = 0 then .infinity (w.getLsbD 31) else .nan := by
  rw [value, if_neg (by omega)]

theorem expField_le_or_eq (w : Word) : expField w ≤ 254 ∨ expField w = 255 := by
  rw [expField_eq]
  omega

/-- The magnitude in units of `2 ^ (-149)`, as the rational of R113. -/
theorem magnitude_div (w : Word) :
    (magnitude w : ℚ) / 2 ^ 149 =
      if expField w = 0 then (fracField w : ℚ) * (2 : ℚ) ^ (-149 : ℤ)
      else ((2 : ℚ) ^ 23 + fracField w) * (2 : ℚ) ^ ((expField w : ℤ) - 150) := by
  rw [magnitude]
  split
  · rw [zpow_neg, div_eq_mul_inv]
    rfl
  next hexp =>
    obtain ⟨e, he⟩ := Nat.exists_eq_succ_of_ne_zero hexp
    have hpow : (2 : ℚ) ^ ((e.succ : ℤ) - 150) = 2 ^ e / 2 ^ 149 := by
      rw [← zpow_natCast, ← zpow_natCast, ← zpow_sub₀ two_ne_zero]
      congr 1
      push_cast
      ring
    rw [he, hpow, Nat.succ_sub_one]
    push_cast
    ring

/-- Settles O28: a finite word by its magnitude, the others by their fraction field, and the examples by computation. -/
theorem binaryWordValue : Obligations.BinaryWordValue := by
  refine ⟨fun w => ?_, by decide, by decide⟩
  rw [← expField_eq, ← fracField_eq]
  exact ⟨fun h => ⟨magnitude w, value_of_expField_le h, magnitude_div w⟩, value_of_expField_eq⟩

/-! ## The clamp by value (R114) -/

theorem value_eq_finite_iff {w : Word} {neg : Bool} {n : Nat} :
    value w = .finite neg n ↔ expField w ≤ 254 ∧ w.getLsbD 31 = neg ∧ magnitude w = n := by
  rcases expField_le_or_eq w with h | h
  · simp [value_of_expField_le h, h]
  · rw [value_of_expField_eq h]
    split <;> simp [h]

theorem value_eq_infinity_iff {w : Word} {neg : Bool} :
    value w = .infinity neg ↔ expField w = 255 ∧ fracField w = 0 ∧ w.getLsbD 31 = neg := by
  rcases expField_le_or_eq w with h | h
  · simp only [value_of_expField_le h, reduceCtorEq, false_iff]
    omega
  · rw [value_of_expField_eq h]
    split <;> simp_all

theorem value_eq_nan_iff {w : Word} : value w = .nan ↔ expField w = 255 ∧ fracField w ≠ 0 := by
  rcases expField_le_or_eq w with h | h
  · simp only [value_of_expField_le h, reduceCtorEq, false_iff]
    omega
  · rw [value_of_expField_eq h]
    split <;> simp_all

theorem signBit_eq_false_iff {w : Word} : w.getLsbD 31 = false ↔ w.toNat < 0x80000000 := by
  rw [← Bool.not_eq_true, signBit_iff, not_le]

/-- A word with its sign bit set clamps to 0.0. -/
theorem clampProp_of_signBit {w : Word} (h : w.getLsbD 31 = true) : clampProp w = 0#32 := if_pos h

/-- A word above 1.0 with its sign bit clear stands for more than 1.0: it has a greater exponent or a nonzero
fraction. -/
theorem lt_magnitude_of_gt_one {w : Word} (hone : 0x3F800000 < w.toNat) (hsign : w.toNat < 0x80000000) :
    2 ^ 149 < magnitude w := by
  have hexp : expField w = w.toNat / 2 ^ 23 := by rw [expField_eq]; omega
  have hfrac := fracField_eq w
  have hne : expField w ≠ 0 := by omega
  rw [magnitude, if_neg hne]
  obtain hexp' | ⟨hexp', hfrac'⟩ : 128 ≤ expField w ∨ expField w = 127 ∧ 1 ≤ fracField w := by omega
  · calc 2 ^ 149 < 2 ^ 23 * 2 ^ 127 := by norm_num
      _ ≤ (2 ^ 23 + fracField w) * 2 ^ (expField w - 1) :=
        Nat.mul_le_mul (Nat.le_add_right _ _) (Nat.pow_le_pow_right (by decide) (by omega))
  · calc 2 ^ 149 < (2 ^ 23 + 1) * 2 ^ 126 := by norm_num
      _ ≤ (2 ^ 23 + fracField w) * 2 ^ (expField w - 1) :=
        Nat.mul_le_mul (by omega) (Nat.pow_le_pow_right (by decide) (by omega))

/-- Settles O30: by the kind of the value; a non-negative finite word is canonical and kept, or above 1.0 and
clamped. -/
theorem clampPropByValue : Obligations.ClampPropByValue := by
  refine fun w => ⟨fun h => ?nan, fun h => ?negInf, fun h => ?posInf, fun n h => ?negative, fun n h => ?positive⟩
  case nan =>
    obtain ⟨hexp, hfrac⟩ := value_eq_nan_iff.1 h
    rw [expField_eq] at hexp
    rw [fracField_eq] at hfrac
    exact clampProp_of_gt_inf (by omega)
  case negInf =>
    obtain ⟨-, -, hsign⟩ := value_eq_infinity_iff.1 h
    exact clampProp_of_signBit hsign
  case posInf =>
    obtain ⟨hexp, hfrac, hsign⟩ := value_eq_infinity_iff.1 h
    rw [expField_eq] at hexp
    rw [fracField_eq] at hfrac
    rw [signBit_eq_false_iff] at hsign
    exact clampProp_of_gt_one (by omega) (by omega)
  case negative =>
    obtain ⟨-, hsign, -⟩ := value_eq_finite_iff.1 h
    exact clampProp_of_signBit hsign
  case positive =>
    obtain ⟨hexp, hsign, rfl⟩ := value_eq_finite_iff.1 h
    rw [expField_eq] at hexp
    rw [signBit_eq_false_iff] at hsign
    rcases le_or_gt w.toNat 0x3F800000 with hcanonical | hone
    · have hkept : clampProp w = w := clampProp_of_canonical hcanonical
      have hle : magnitude w ≤ 2 ^ 149 := CanonicalWord.magnitude_le hcanonical
      rw [hkept, h, Nat.min_eq_left hle]
      exact ⟨rfl, fun _ => rfl⟩
    · have hclamped : clampProp w = oneWord := clampProp_of_gt_one hone (by omega)
      have hgt := lt_magnitude_of_gt_one hone hsign
      have hvalue : value oneWord = .finite false (2 ^ 149) := by decide
      rw [hclamped, Nat.min_eq_right hgt.le]
      exact ⟨hvalue, fun hle => absurd hgt (not_lt.2 hle)⟩

end Sys2Proof.Machine
end

section
/-! The pixel commands repeated (`41_pixel_buffer.md`): storing a pixel twice is storing it once. -/

namespace Sys2Proof.Machine

/-! ## Idempotence (R132) -/

/-- Writing an entry twice is writing it once. -/
theorem Sparse.set_set {α : Type} {d : α} [DecidableEq α] {m : List (Nat × α)} (h : Sparse.wf d m) (a : Nat) (v : α) :
    Sparse.set d (Sparse.set d m a v) a v = Sparse.set d m a v := by
  have hset := Sparse.wf_set h a v
  refine Sparse.ext_get (Sparse.wf_set hset a v) hset fun k => ?_
  rw [Sparse.get_set hset]
  split
  next hk => rw [Sparse.get_set h, if_pos hk]
  · rfl

/-- Storing the same pixel again changes nothing. -/
theorem storePixel_storePixel {s : State} (h : Sparse.wf Pixel.reset s.pix) (q : Proportion) (n : Nat) :
    storePixel q n (storePixel q n s) = storePixel q n s := by
  rcases le_or_gt s.params.ledCount s.idx.toNat with hidx | hidx
  · rw [storePixel_of_le hidx, storePixel_of_le (s := finish .indexError s) hidx]
    rfl
  · have hset := Sparse.set_set h s.idx.toNat (shadedPixel s q n)
    rw [storePixel_of_lt hidx, storePixel_of_lt (s := finish .ok (setPix s.idx.toNat (shadedPixel s q n) s)) hidx]
    simp only [finish, setPix, shadedPixel] at hset ⊢
    rw [hset]

/-- A command that is repeated meets the same check of `Init`. -/
theorem requireInit_idem {k k' : State → State} {s : State} (hinit : (k s).init = s.init) (hk : k' (k s) = k s) :
    requireInit k' (requireInit k s) = requireInit k s := by
  rcases requireInit_cases k s with ⟨h, he⟩ | ⟨h, he⟩
  · rw [he, requireInit_of_not_init (s := finish .notInit s) h]
    rfl
  · rw [he, requireInit_of_init (hinit.trans h), hk]

theorem storePixel_init (q : Proportion) (n : Nat) (s : State) : (storePixel q n s).init = s.init := by
  rw [storePixel, apply_ite State.init, finish_init, finish_init, setPix_init, ite_self]

theorem requireInit_storePixel_idem {s : State} (h : Sparse.wf Pixel.reset s.pix) (q : Proportion) (n : Nat) :
    requireInit (storePixel q n) (requireInit (storePixel q n) s) = requireInit (storePixel q n) s :=
  requireInit_idem (storePixel_init q n s) (storePixel_storePixel h q n)

/-- A pixel command that has the same proportions to store the second time gives the same state again. -/
theorem exec_pixel_again {i : Instr} {q : Proportion} {n : Nat} {s t : State} (hwf : Sparse.wf Pixel.reset s.pix)
    (hfirst : t = requireInit (storePixel q n) s) (hagain : exec i t = .next (requireInit (storePixel q n) t)) :
    exec i t = .next t := by
  rw [hagain, hfirst, requireInit_storePixel_idem hwf]

/-- Settles O36: the second SET_PIXEL finds the same operands, and the second MOD_BRIGHT the proportions that the first
one kept. -/
theorem pixelCommandsAreIdempotent : Obligations.PixelCommandsAreIdempotent := by
  refine fun n s t hwf => ⟨fun h => ?setPixel, fun h => ?modBright⟩
  case setPixel =>
    have hfirst : t = requireInit (storePixel (propOperand s) n) s := (effect_eq_of_exec h).symm
    have hframe : PixelFrame s t := hfirst ▸ pixelFrame_requireInit_storePixel _ n s
    have hoperand : propOperand t = propOperand s := by rw [hframe]; rfl
    refine exec_pixel_again hwf hfirst ?_
    rw [← hoperand]
    exact exec_setPixel n t
  case modBright =>
    have hfirst : t = requireInit (storePixel (getPix s s.idx.toNat).prop n) s := (effect_eq_of_exec h).symm
    have hframe : PixelFrame s t := hfirst ▸ pixelFrame_requireInit_storePixel _ n s
    have hidx : t.idx = s.idx := by rw [hframe]
    have hprop : (getPix t s.idx.toNat).prop = (getPix s s.idx.toNat).prop :=
      hfirst ▸ prop_effect_modBright hwf n s.idx.toNat
    refine exec_pixel_again hwf hfirst ?_
    rw [← hprop, ← hidx]
    exact exec_modBright n t

end Sys2Proof.Machine
end

section
/-! Accepted frame starts (`44_frame_control.md`): the state that one leaves and the frame that it has to send, for
TRANSMIT by the colours and for WIPE all off, and MOD_BRIGHT after a WIPE. -/

namespace Sys2Proof.Machine

/-! ## The state after an accepted frame start (R200) -/

/-- TRANSMIT and WIPE are frame starts of fills that write only the two stores. -/
theorem exec_frame_start {i : Instr} (hi : i = .transmit ∨ i = .wipe) :
    ∃ fill, FillsStores fill ∧ ∀ s, exec i s = .next (requireInit (frameEffect fill) s) := by
  rcases hi with rfl | rfl
  · exact ⟨pack, fillsStores_pack, exec_transmit⟩
  · exact ⟨blank, fillsStores_blank, exec_wipe⟩

/-- A frame start that answers OK is an accepted one. -/
theorem acceptedFrame_of_ok {i : Instr} {fill : State → State} {s t : State}
    (hexec : exec i s = .next (requireInit (frameEffect fill) s)) (h : exec i s = .next t) (hok : t.result = .ok) :
    s.init = true ∧ t = acceptedFrame fill s := by
  rw [hexec, Host.Outcome.next.injEq] at h
  subst h
  rcases requireInit_cases (frameEffect fill) s with ⟨-, h⟩ | ⟨hinit, h⟩
  · rw [h] at hok
    cases hok
  · rw [h] at hok ⊢
    rcases frameEffect_cases fill s with ⟨-, he⟩ | ⟨-, -, he⟩ | ⟨-, -, he⟩
    · rw [he] at hok
      cases hok
    · exact ⟨hinit, he⟩
    · rw [he] at hok
      cases hok

theorem acceptedFrame_init {fill : State → State} (hfill : FillsStores fill) (s : State) :
    (acceptedFrame fill s).init = s.init := by
  rw [acceptedFrame, hfill]
  rfl

theorem acceptedFrame_trace {fill : State → State} (hfill : FillsStores fill) (s : State) :
    (acceptedFrame fill s).trace = s.trace := by
  rw [acceptedFrame, hfill]
  rfl

/-- An accepted frame has its whole stream to send (R160, R200). -/
theorem remaining_acceptedFrame (fill : State → State) (s : State) :
    remaining (acceptedFrame fill s) = frameStream (acceptedFrame fill s) := rfl

/-- Settles O43: the first frame start leaves the block initialised and busy. -/
theorem secondFrameStartIsRejected : Obligations.SecondFrameStartIsRejected := by
  intro i j s t hi hj h hok
  obtain ⟨fill, hfill, hexec⟩ := exec_frame_start hi
  obtain ⟨fill', -, hexec'⟩ := exec_frame_start hj
  obtain ⟨hinit, rfl⟩ := acceptedFrame_of_ok (hexec s) h hok
  exact exec_frame_of_busy (hexec' _) ((acceptedFrame_init hfill s).trans hinit) rfl

/-! ## The stream of a frame (R160) -/

theorem length_payloadStream (s : State) : (payloadStream s).length = 24 * s.params.ledCount := by
  rw [payloadStream, List.length_map, List.length_range, payloadBits_eq]

/-- Settles O46: the payload words are listed in order, WR comes after them, and an accepted frame is at its first
word. -/
theorem frameStreamShape : Obligations.FrameStreamShape := by
  intro s
  have hlength := length_payloadStream s
  refine ⟨?length, fun k hk => ?payload, ?reset, fun i t hi h hok => ?accepted⟩
  case length => rw [frameStream, List.length_append, hlength, List.length_singleton]
  case payload =>
    rw [frameStream, List.getElem?_append_left (hlength ▸ hk), payloadStream, List.getElem?_map,
      List.getElem?_range (payloadBits_eq s.params ▸ hk), Option.map_some]
  case reset => rw [frameStream, ← hlength, List.getElem?_concat_length]
  case accepted =>
    obtain ⟨fill, hfill, hexec⟩ := exec_frame_start hi
    obtain ⟨-, rfl⟩ := acceptedFrame_of_ok (hexec s) h hok
    exact ⟨remaining_acceptedFrame fill s, congrArg emitted (acceptedFrame_trace hfill s)⟩

/-! ## The frame of a TRANSMIT (R141) -/

/-- A fill of a store is determined by the values of the entries that it writes. -/
theorem Sparse.tabulate_congr {α : Type} {d : α} [DecidableEq α] {n : Nat} {f g : Nat → α}
    (h : ∀ k < n, f k = g k) : Sparse.tabulate d n f = Sparse.tabulate d n g := by
  refine Sparse.ext_get (Sparse.wf_tabulate n f) (Sparse.wf_tabulate n g) fun k => ?_
  rw [Sparse.get_tabulate, Sparse.get_tabulate]
  split
  next hk => exact h k hk
  · rfl

/-- The byte of a place belongs to a pixel in range (R29). -/
theorem div_bpp_lt {p : Params} {k : Nat} (hk : k < nBytes p) : k / Config.bpp < p.ledCount :=
  Nat.div_lt_of_lt_mul (by rwa [nBytes, Nat.mul_comm] at hk)

/-- A pack is determined by the pixel count, the order and the colours. -/
theorem pack_txBuf_congr {s s' : State} (hleds : s.params.ledCount = s'.params.ledCount)
    (horder : (profile s.params s.sel).order = (profile s'.params s'.sel).order)
    (hcolors : ∀ i < s.params.ledCount, (getPix s i).c8 = (getPix s' i).c8) : (pack s).txBuf = (pack s').txBuf := by
  have hbytes : nBytes s.params = nBytes s'.params := by rw [nBytes, nBytes, hleds]
  rw [pack_txBuf, pack_txBuf, ← hbytes]
  refine Sparse.tabulate_congr fun k hk => ?_
  rw [packByte, packByte, hcolors _ (div_bpp_lt hk), horder]

/-- Settles O40: an accepted TRANSMIT packs, and the draw does not show in the bytes. -/
theorem packIsDeterminedByColors : Obligations.PackIsDeterminedByColors := by
  intro s s' t t' hleds horder hcolors h hok h' hok'
  obtain ⟨-, rfl⟩ := acceptedFrame_of_ok (exec_transmit s) h hok
  obtain ⟨-, rfl⟩ := acceptedFrame_of_ok (exec_transmit s') h' hok'
  exact pack_txBuf_congr (s := takeChanAccept s) (s' := takeChanAccept s') hleds horder hcolors

/-! ## The frame of a WIPE (R144, R206) -/

/-- With an empty transmit buffer every payload word is W0. -/
theorem bitWord_of_txBuf_nil {s : State} (h : s.txBuf = []) (k : Nat) : bitWord s k = s.tick.w0 := by
  simp [bitWord, payloadBit, getTx_nil h]

theorem frameStream_of_txBuf_nil {s : State} (h : s.txBuf = []) :
    frameStream s = List.replicate (24 * s.params.ledCount) s.tick.w0 ++ [s.tick.wr] := by
  have hword : bitWord s = fun _ => s.tick.w0 := funext (bitWord_of_txBuf_nil h)
  rw [frameStream, payloadStream, hword, List.map_const', List.length_range, payloadBits_eq]

theorem channelOf_black (o : Channel) : channelOf ⟨0#8, 0#8, 0#8⟩ o = 0#8 := by cases o <;> rfl

/-- Packing black pixels gives an empty transmit buffer. -/
theorem pack_txBuf_of_black {s : State} (h : ∀ i < s.params.ledCount, (getPix s i).c8 = ⟨0#8, 0#8, 0#8⟩) :
    (pack s).txBuf = [] := by
  rw [← blank_txBuf_nil s, pack_txBuf, blank_txBuf]
  refine Sparse.tabulate_congr fun k hk => ?_
  rw [packByte, h _ (div_bpp_lt hk), channelOf_black]

/-- Settles O42: an accepted WIPE leaves an empty transmit buffer and black pixels. -/
theorem wipeSendsAllOffFrame : Obligations.WipeSendsAllOffFrame := by
  intro s t h hok
  obtain ⟨-, rfl⟩ := acceptedFrame_of_ok (exec_wipe s) h hok
  have hempty := acceptedFrame_blank_txBuf_nil s
  constructor
  · rw [remaining_acceptedFrame, frameStream_of_txBuf_nil hempty]
    rfl
  · rw [hempty]
    refine pack_txBuf_of_black fun i hi => ?_
    rw [getPix_acceptedFrame_blank_of_lt (s := s) hi]

/-! ## MOD_BRIGHT after a WIPE (R136) -/

@[simp] theorem gammaIndex_zeroWord (b : Nat) : gammaIndex 0#32 b = 0 := by
  have hmagnitude : magnitude 0#32 = 0 := by decide
  rw [gammaIndex, hmagnitude, Nat.zero_mul]
  decide

/-- A zero proportion is dark at every brightness. -/
theorem channel8_zeroWord {p : Params} (hp : p.Legal) (b : Nat) : channel8 p 0#32 b = 0#8 := by
  rw [← channel8_zero hp 0#32, channel8, channel8, gammaIndex_zeroWord, gammaIndex_zero]

/-- Settles O37: the accepted WIPE keeps the proportions, and MOD_BRIGHT shades the pixel with them. -/
theorem modBrightRestoresHueAfterWipe : Obligations.ModBrightRestoresHueAfterWipe := by
  intro n s t u hinv h hok hidx hu
  obtain ⟨hinit, ht⟩ := acceptedFrame_of_ok (exec_wipe s) h hok
  have hparams : t.params = s.params := by simp [ht, acceptedFrame]
  have hsame : t.idx = s.idx := by simp [ht, acceptedFrame]
  have hinit' : t.init = true := by simp [ht, acceptedFrame, hinit]
  have hwf : Sparse.wf Pixel.reset t.pix := ht ▸ wf_blank_pix (takeChanAccept s)
  have hkept : (getPix t s.idx.toNat).prop = (getPix s s.idx.toNat).prop := by
    rw [ht, getPix_acceptedFrame_blank_of_lt hidx]
  have hidx' : t.idx.toNat < t.params.ledCount := by rwa [hsame, hparams]
  obtain ⟨u', hu', hframe, hpix, -⟩ := exec_pixel_of_lt (exec_modBright n t) hinit' hidx' hwf
  obtain rfl := Host.Outcome.next.inj (hu'.symm.trans hu)
  rw [hsame, hkept, shadedPixel, hparams] at hpix
  refine ⟨by rw [hframe], hpix, fun hzero => ?_⟩
  rw [hpix, hzero]
  simp only [computeColor8, channel8_zeroWord hinv.legal]

end Sys2Proof.Machine
end

section
/-! The frame in flight (`42_pulse_encoder.md`, `70_reset_and_hazards.md`): which steps keep its stream, what steps
emit, what any run of requests emits, how many requests a frame takes, and its wire time. -/

namespace Sys2Proof.Machine

/-! ## One step with a frame in flight -/

/-- Settles O51: a step that does not cut the frame off carries it on. -/
theorem frameOutputIsConserved : Obligations.FrameOutputIsConserved := by
  intro x s t hinv hbusy hreset habort h
  rcases hinv.serve_in_flight hbusy h with ⟨hcut, -⟩ | hcarries
  · exact absurd hcut (not_or.2 ⟨hreset, habort⟩)
  · exact hcarries.emitted_append_remaining

/-- Settles O58: an input that asks for no word and does not cut the frame off carries it on by none, and the words left
tell the cursor, and the cursor the phase. -/
theorem frameWaitsForTheSink : Obligations.FrameWaitsForTheSink := by
  refine fun s hinv hbusy => ⟨step_idle, fun x t hasks hcut h => ?_⟩
  have hwords : wordsAsked x = 0 := by
    have hnone := mt asksForWords_iff.2 (Bool.eq_false_iff.1 hasks)
    omega
  have hcarries : CarriesOn 0 s t := hwords ▸ (hinv.serve_in_flight hbusy h).resolve_left fun hcuts => hcut hcuts.1
  have hleft : remaining t = remaining s := hcarries.left
  have hbusy' : t.busy = true := busy_of_remaining_ne_nil (hleft ▸ hinv.remaining_ne_nil hbusy)
  have hinv' : BlockInv t := hinv.after_serve h
  obtain ⟨hparams : t.params = s.params, -⟩ := profileNeverChangesAfterInit (push x s) t h
  have hplace : t.bitpos = s.bitpos := by
    have hlength := congrArg List.length hleft
    have hcursor := hinv.cursor
    have hcursor' := hinv'.cursor
    rw [length_remaining hbusy' hcursor', length_remaining hbusy hcursor] at hlength
    rw [hparams] at hlength hcursor'
    omega
  refine ⟨hbusy', hplace, ?_, hleft, ?_⟩
  · rw [hinv'.phase_eq hbusy', hinv.phase_eq hbusy, hparams, hplace]
  · rw [hcarries.sent, List.take_zero, List.append_nil]

/-! ## The frame's snapshot (R77) -/

theorem frameStream_congr {s t : State} (hparams : t.params = s.params) (htx : t.txBuf = s.txBuf)
    (htick : t.tick = s.tick) : frameStream t = frameStream s := by
  have hword : bitWord t = bitWord s := by
    funext k
    rw [bitWord, bitWord, payloadBit, payloadBit, getTx_congr htx, htick]
  rw [frameStream, frameStream, payloadStream, payloadStream, hword, hparams, htick]

/-- While a frame is in flight no instruction writes the transmit buffer. -/
theorem effect_txBuf_of_busy {s : State} (hinit : s.init = true) (hbusy : s.busy = true) (i : Instr) :
    (effect i s).txBuf = s.txBuf := by
  by_cases habort : i = .abort
  · subst habort
    rw [effect, requireInit_of_init hinit]
    rfl
  by_cases hencode : ∃ cap, i = .encode cap
  · obtain ⟨cap, rfl⟩ := hencode
    rw [effect, encodeEffect_frame]
  · exact (sameFrame_effect hinit hbusy habort fun cap hi => hencode ⟨cap, hi⟩).txBuf

/-- Settles O44: no step but reset writes the transmit buffer, and after INIT none writes the latched words. -/
theorem frameSnapshotIsKept : Obligations.FrameSnapshotIsKept := by
  intro s t hinv hbusy hreset h
  have hinit := hinv.init_of_busy hbusy
  obtain ⟨hparams, hprofile⟩ := profileNeverChangesAfterInit s t h
  obtain ⟨-, -, htick⟩ := hprofile hinit hreset
  suffices htx : t.txBuf = s.txBuf from ⟨htx, frameStream_congr hparams htx htick⟩
  rcases step_cases h with rfl | ⟨x, rest, hinputs, h⟩
  · rfl
  rcases step_push_cases h with ⟨i, -, -, rfl⟩ | ⟨-, -, hplain⟩ | ⟨rfl, -⟩
  · exact effect_txBuf_of_busy (s := { s with inputs := rest }) hinit hbusy i
  · exact hplain.sameFrame.txBuf
  · exact absurd (congrArg List.head? hinputs) hreset

/-! ## What a step emits (R90, R91) -/

/-- No instruction but ENCODE adds an observation. -/
theorem effect_trace {i : Instr} (hi : ∀ cap, i ≠ .encode cap) (s : State) : (effect i s).trace = s.trace := by
  cases i with
  | init n => rw [effect, initEffect_frame]
  | setPixel n => exact (congrArg State.trace (pixelFrame_requireInit_storePixel (propOperand s) n s) :)
  | modBright n => exact (congrArg State.trace (pixelFrame_requireInit_storePixel (storedProp s (pixelIndex s)) n s) :)
  | transmit => rw [effect, requireInit_frameEffect_frame fillsStores_pack]
  | wipe => rw [effect, requireInit_frameEffect_frame fillsStores_blank]
  | abort => rw [effect, requireInit_abortEffect_frame]
  | encode cap => exact absurd rfl (hi cap)

/-- ENCODE emits the next words of what is left, none when no frame is in flight. -/
theorem BlockInv.emitted_encodeEffect {s : State} (hinv : BlockInv s) (cap : Nat) :
    emitted (encodeEffect cap s).trace = emitted s.trace ++ (remaining s).take cap := by
  cases hbusy : s.busy with
  | false => simp [encodeEffect_of_idle cap hbusy, remaining_of_idle hbusy, eventWords]
  | true => exact (hinv.carriesOn_encode hbusy cap).sent

/-- Every step emits some first words of what is left. -/
theorem BlockInv.emitted_step {s t : State} (hinv : BlockInv s) (h : step s = .next t) :
    ∃ n, emitted t.trace = emitted s.trace ++ (remaining s).take n := by
  suffices hcases : emitted t.trace = emitted s.trace ∨
      ∃ n, emitted t.trace = emitted s.trace ++ (remaining s).take n by
    rcases hcases with hsame | hwords
    · exact ⟨0, by rw [hsame, List.take_zero, List.append_nil]⟩
    · exact hwords
  rcases step_cases h with rfl | ⟨x, rest, -, h⟩
  · exact .inl rfl
  rcases step_push_cases h with ⟨i, -, -, rfl⟩ | ⟨-, -, hplain⟩ | ⟨-, rfl⟩
  · by_cases hencode : ∃ cap, i = .encode cap
    · obtain ⟨cap, rfl⟩ := hencode
      exact .inr ⟨cap, (hinv.with_inputs rest).emitted_encodeEffect cap⟩
    · exact .inl (congrArg emitted (effect_trace (fun cap hi => hencode ⟨cap, hi⟩) { s with inputs := rest }))
  · exact .inl hplain.sameFrame.emitted
  · exact .inl rfl

/-- The stream is made of the three latched words. -/
theorem mem_frameStream {s : State} {w : SymbolWord} (h : w ∈ frameStream s) :
    w = s.tick.w0 ∨ w = s.tick.w1 ∨ w = s.tick.wr := by
  rw [frameStream, List.mem_append, List.mem_singleton, payloadStream, List.mem_map] at h
  rcases h with ⟨k, -, rfl⟩ | hwr
  · rw [bitWord]
    split
    · exact .inr (.inl rfl)
    · exact .inl rfl
  · exact .inr (.inr hwr)

/-- Both segments of a word can be carried by one segment each (R188). -/
def SegmentsOk (p : Params) (w : SymbolWord) : Prop := DurationOk p w.dur0 ∧ DurationOk p w.dur1

theorem segmentsOk_profileTicks {p : Params} {n : Nat} (h : ProfileOk p n) :
    SegmentsOk p (profileTicks p n).w0 ∧ SegmentsOk p (profileTicks p n).w1 ∧ SegmentsOk p (profileTicks p n).wr := by
  obtain ⟨h0h, h0l, h1h, h1l, hgap⟩ := h
  exact ⟨⟨h0h, h0l⟩, ⟨h1h, h1l⟩, ⟨hgap, hgap⟩⟩

/-- In an initialised block the words of the stream have durations that a segment can carry. -/
theorem BlockInv.segmentsOk {s : State} (hinv : BlockInv s) (hinit : s.init = true) {w : SymbolWord}
    (h : w ∈ frameStream s) : SegmentsOk s.params w := by
  obtain ⟨-, hok, htick⟩ := hinv.latched hinit
  obtain ⟨h0, h1, hr⟩ := segmentsOk_profileTicks hok
  rw [← htick] at h0 h1 hr
  rcases mem_frameStream h with rfl | rfl | rfl
  · exact h0
  · exact h1
  · exact hr

/-- What is left of a frame is part of its stream, and there is something left only while it is in flight. -/
theorem mem_remaining {s : State} {w : SymbolWord} (h : w ∈ remaining s) : s.busy = true ∧ w ∈ frameStream s := by
  have hbusy := busy_of_remaining_ne_nil (List.ne_nil_of_mem h)
  rw [remaining, if_pos hbusy] at h
  exact ⟨hbusy, List.mem_of_mem_drop h⟩

/-- Settles O50: a step emits words that are left, which are words of the stream. -/
theorem emittedWordsAreTheThreeLatched : Obligations.EmittedWordsAreTheThreeLatched := by
  intro s t hinv h
  obtain ⟨n, hemitted⟩ := hinv.emitted_step h
  refine ⟨_, hemitted, fun w hw => ?_⟩
  obtain ⟨hbusy, hmem⟩ := mem_remaining (List.mem_of_mem_take hw)
  obtain ⟨⟨hlow0, hhigh0⟩, hlow1, hhigh1⟩ := hinv.segmentsOk (hinv.init_of_busy hbusy) hmem
  obtain ⟨-, -, -, -, ⟨-, hmax⟩, -⟩ := hinv.legal
  exact ⟨mem_frameStream hmem, hlow0, hhigh0, hlow1, hhigh1, by omega, by omega⟩

/-! ## Runs of requests (R161) -/

/-- The flag of a response when `n` words were left at first, the capacities before it add up to `before`, and with its
own to `upTo`. -/
def flagOf (upTo before n : Nat) : ResponseFlag :=
  if upTo < n then .full else if before < n then .complete else .idle

/-- Only the words left over the capacities matter. -/
theorem flagOf_add_add (cap upTo before n : Nat) :
    flagOf (cap + upTo) (cap + before) n = flagOf upTo before (n - cap) := by
  simp only [flagOf, Nat.lt_sub_iff_add_lt']

/-- The response to a request of capacity `cap` when the words `ws` are left. -/
def answer (ws : List SymbolWord) (cap : Nat) : Response := ⟨ws.take cap, flagOf cap 0 ws.length⟩

/-- The responses to requests of the capacities `caps`, one after the other, from the words `ws` on. -/
def answers (ws : List SymbolWord) : List Nat → List Response
  | [] => []
  | cap :: caps => answer ws cap :: answers (ws.drop cap) caps

/-- ENCODE answers for the words left, whether a frame is in flight or not. -/
theorem BlockInv.encodeEffect_trace {s : State} (hinv : BlockInv s) (cap : Nat) :
    (encodeEffect cap s).trace = s.trace ++ [.response (answer (remaining s) cap)] := by
  cases hbusy : s.busy with
  | false => simp [encodeEffect_of_idle cap hbusy, remaining_of_idle hbusy, answer, flagOf]
  | true =>
    rcases lt_or_ge cap (remaining s).length with h | h
    · simp [hinv.encodeEffect_of_lt hbusy h, answer, flagOf, h]
    · have hsome := List.length_pos_iff.2 (hinv.remaining_ne_nil hbusy)
      simp only [hinv.encodeEffect_of_le hbusy h, answer, flagOf, if_neg (not_lt.2 h), if_pos hsome,
        List.take_of_length_le h]
      rfl

/-- A run of requests keeps the invariant, adds its responses to the trace and uses up the words they ask for. -/
theorem BlockInv.after_encodeRun {s : State} (hinv : BlockInv s) (caps : List Nat) :
    BlockInv (encodeRun caps s) ∧
    (encodeRun caps s).trace = s.trace ++ (answers (remaining s) caps).map Event.response ∧
    remaining (encodeRun caps s) = (remaining s).drop caps.sum := by
  induction caps generalizing s with
  | nil => exact ⟨hinv, (List.append_nil _).symm, rfl⟩
  | cons cap caps ih =>
    obtain ⟨hinv', htrace, hleft⟩ := ih (hinv.after_encode cap)
    rw [encodeRun_cons]
    refine ⟨hinv', ?_, ?_⟩
    · rw [htrace, hinv.encodeEffect_trace, hinv.remaining_encodeEffect, answers, List.map_cons, List.append_assoc,
        List.singleton_append]
    · rw [hleft, hinv.remaining_encodeEffect, List.drop_drop, List.sum_cons]

theorem length_answers (ws : List SymbolWord) (caps : List Nat) : (answers ws caps).length = caps.length := by
  induction caps generalizing ws with
  | nil => rfl
  | cons cap caps ih => rw [answers, List.length_cons, List.length_cons, ih]

/-- Together the responses hold the first words, as many as the capacities add up to. -/
theorem flatMap_words_answers (ws : List SymbolWord) (caps : List Nat) :
    (answers ws caps).flatMap Response.words = ws.take caps.sum := by
  induction caps generalizing ws with
  | nil => rfl
  | cons cap caps ih => rw [answers, List.flatMap_cons, ih, List.sum_cons, List.take_add, answer]

/-- The flag of each response, by what the capacities up to it and before it add up to. -/
theorem flag_answers {ws : List SymbolWord} {caps : List Nat} {j : Nat} {r : Response}
    (h : (answers ws caps)[j]? = some r) :
    r.flag = flagOf (caps.take (j + 1)).sum (caps.take j).sum ws.length := by
  induction caps generalizing ws j with
  | nil => cases h
  | cons cap caps ih =>
    cases j with
    | zero =>
      rw [answers, List.getElem?_cons_zero, Option.some.injEq] at h
      subst h
      simp [answer]
    | succ j =>
      rw [answers, List.getElem?_cons_succ] at h
      rw [ih h, List.length_drop, List.take_succ_cons, List.take_succ_cons, List.sum_cons, List.sum_cons,
        flagOf_add_add]

/-- Settles O52: the responses are `answers` for the words left. -/
theorem encodingIsResumable : Obligations.EncodingIsResumable := by
  intro caps s hinv _
  obtain ⟨-, htrace, -⟩ := hinv.after_encodeRun caps
  exact ⟨answers (remaining s) caps, htrace, length_answers _ _, flatMap_words_answers _ _, fun _ _ => flag_answers⟩

/-- In the invariant a frame is in flight exactly while it has words left. -/
theorem BlockInv.busy_iff {s : State} (hinv : BlockInv s) : s.busy = true ↔ 0 < (remaining s).length :=
  ⟨fun hbusy => List.length_pos_iff.2 (hinv.remaining_ne_nil hbusy),
    fun h => busy_of_remaining_ne_nil (List.length_pos_iff.1 h)⟩

/-- Settles O53: `k` requests use up `k * c` of the frame's words. -/
theorem requestsPerFrame : Obligations.RequestsPerFrame := by
  intro c k s hinv hbusy hstart hc
  have hlength : (remaining s).length = 24 * s.params.ledCount + 1 := by
    rw [length_remaining hbusy hinv.cursor, hstart, payloadBits_eq, Nat.sub_zero]
  have hcount : (encodeRun (List.replicate k c) s).busy = true ↔
      k < (24 * s.params.ledCount + 1 + (c - 1)) / c := by
    obtain ⟨hinv', -, hleft⟩ := hinv.after_encodeRun (List.replicate k c)
    rw [hinv'.busy_iff, hleft, List.length_drop, hlength, List.sum_replicate, smul_eq_mul,
      Nat.lt_div_iff_mul_lt hc, Nat.add_sub_cancel, Nat.sub_pos_iff_lt]
  refine ⟨hcount, fun hleds hcap => ?_⟩
  subst hcap
  rw [hcount, hleds]

/-! ## The wire time of a frame (R271) -/

/-- Adding one of two numbers for each entry, by how many entries have which. -/
theorem sum_map_ite_eq_countP (p : Nat → Bool) (a b : Nat) (l : List Nat) :
    (l.map fun k => if p k then a else b).sum = l.countP p * a + (l.length - l.countP p) * b := by
  induction l with
  | nil => simp
  | cons k l ih =>
    have hle := List.countP_le_length (p := p) (l := l)
    rw [List.map_cons, List.sum_cons, ih, List.length_cons]
    cases hk : p k with
    | true =>
      rw [List.countP_cons_of_pos hk, Nat.add_sub_add_right, Nat.add_one_mul, if_pos rfl]
      omega
    | false =>
      rw [List.countP_cons_of_neg (by simp [hk]), Nat.succ_sub hle, Nat.succ_mul, if_neg Bool.false_ne_true]
      omega

/-- Settles O56: each payload word takes the ticks of W1 or of W0, and WR comes last. -/
theorem frameWireTime : Obligations.FrameWireTime := by
  intro s
  have hword : wordTicks ∘ bitWord s = fun k => if payloadBit s k then wordTicks s.tick.w1 else wordTicks s.tick.w0 :=
    funext fun k => apply_ite wordTicks _ _ _
  rw [frameTicks, frameStream, payloadStream, List.map_append, List.map_map, hword, List.sum_append,
    sum_map_ite_eq_countP, List.length_range, payloadBits_eq, List.map_singleton, List.sum_singleton, oneBits,
    payloadBits_eq]
  rfl

end Sys2Proof.Machine
end

section
/-! Host programs (`30_encoding.md`, R97): a run of the five accesses of `setPixelColor`. -/

namespace Sys2Proof.Machine

/-- A pending write of a register is the next step of a run. -/
theorem run_push_write {r : Reg} {v : Word} {s u : State} (hwrite : writeReg r v s = .next u) (k : Nat) :
    Host.Core.run Sys2Proof.core (k + 1) (push (Stmt.write r v).input s) =
      Host.Core.run Sys2Proof.core k u := run_succ ((step_push_write r v s).trans hwrite) k

/-- A pending write of a legal command word is the next step of a run. -/
theorem run_push_cmd {v : Word} {i : Instr} (hd : decodeCmd v = .ok i) (s : State) (k : Nat) :
    Host.Core.run Sys2Proof.core (k + 1) (push (.host 0x00 4 (.write v)) s) =
      Host.Core.run Sys2Proof.core k (effect i s) := run_succ ((step_push_cmd v s).trans (command_ok hd s)) k

/-- A state with an input at its head is the state without it, and the input pushed. -/
theorem eq_push_of_inputs {s : State} {x : Input} {rest : List Input} (h : s.inputs = x :: rest) :
    s = push x { s with inputs := rest } := by
  rw [push, ← h]

/-- The state after the four operand writes of `setPixelColor`. -/
def withOperands (i r g b : Word) (s : State) : State := { s with idx := i, propR := r, propG := g, propB := b }

/-- The four operand writes of `setPixelColor` with an input `x` behind them. -/
theorem run_operand_writes (i r g b : Word) (x : Input) (s : State) (k : Nat) :
    Host.Core.run Sys2Proof.core (k + 4)
      (push (Stmt.write .idx i).input (push (Stmt.write .propR r).input (push (Stmt.write .propG g).input
        (push (Stmt.write .propB b).input (push x s))))) =
      Host.Core.run Sys2Proof.core k (push x (withOperands i r g b s)) :=
  calc
    _ = Host.Core.run Sys2Proof.core (k + 3)
          (push (Stmt.write .propR r).input (push (Stmt.write .propG g).input
            (push (Stmt.write .propB b).input (push x { s with idx := i })))) := run_push_write rfl _
    _ = Host.Core.run Sys2Proof.core (k + 2)
          (push (Stmt.write .propG g).input
            (push (Stmt.write .propB b).input (push x { s with idx := i, propR := r }))) := run_push_write rfl _
    _ = Host.Core.run Sys2Proof.core (k + 1)
          (push (Stmt.write .propB b).input (push x { s with idx := i, propR := r, propG := g })) :=
        run_push_write rfl _
    _ = Host.Core.run Sys2Proof.core k (push x (withOperands i r g b s)) := run_push_write rfl _

/-- The five accesses are four register writes and a SET_PIXEL of what they wrote. -/
theorem run_setPixelColor (i r g b : Word) {br : Nat} (hbr : br < 256) {rest : List Input} {s : State}
    (h : s.inputs = (Pseudo.setPixelColor i r g b br).inputs ++ rest) :
    Host.Core.run Sys2Proof.core 5 s =
      .next (effect (.setPixel br) (withOperands i r g b { s with inputs := rest })) := by
  have hcmd : decodeCmd (cmdWord 0x02 br) = .ok (.setPixel br) := decodeCmd_cmdWord (by decide) hbr
  have hpush : s = push (Stmt.write .idx i).input (push (Stmt.write .propR r).input (push (Stmt.write .propG g).input
      (push (Stmt.write .propB b).input (push (.host 0x00 4 (.write (cmdWord 0x02 br))) { s with inputs := rest })))) :=
    eq_push_of_inputs h
  calc
    _ = _ := congrArg (Host.Core.run Sys2Proof.core 5) hpush
    _ = _ := run_operand_writes i r g b _ _ 1
    _ = _ := run_push_cmd hcmd _ 0

/-- Settles O57: the run ends with a SET_PIXEL whose index and proportions are those just written. -/
theorem setPixelColorSequence : Obligations.SetPixelColorSequence := by
  intro i r g b br rest s hinv hinit hbr hinputs
  have hrun := run_setPixelColor i r g b hbr hinputs
  have hexec := exec_setPixel br (withOperands i r g b { s with inputs := rest })
  have hframe := pixelFrame_requireInit_storePixel (propOperand (withOperands i r g b { s with inputs := rest })) br
    (withOperands i r g b { s with inputs := rest })
  refine ⟨_, hrun, congrArg State.inputs hframe, fun hidx => ?outOfRange, fun hidx => ?inRange⟩
  case outOfRange =>
    rw [effect_eq_of_exec (exec_pixel_of_le hexec hinit hidx)]
    exact ⟨rfl, rfl⟩
  case inRange =>
    obtain ⟨t, ht, hframe, hpix, hothers⟩ := exec_pixel_of_lt hexec hinit hidx hinv.pixForm
    rw [effect_eq_of_exec ht]
    exact ⟨by rw [hframe], hpix, hothers⟩

end Sys2Proof.Machine
end
